-- ==== Sys2Proof/Word.lean ====
section
/-! DEFINITION. The two word types of the block: a 32-bit word (memory words, command words, host
registers, binary32 patterns) and a 64-bit pattern (binary64 registers). Rules R2, R4 (00_scope.md). -/

namespace Sys2Proof

/-- A 32-bit word: a command word, a word of `MEM`, a host register, or a binary32 pattern (R4, R100). -/
abbrev Word := BitVec 32

/-- A 64-bit pattern in binary64 layout (R4): a coefficient, filter-state or cache register. -/
abbrev Dword := BitVec 64

end Sys2Proof
end

