-- ==== Sys2Proof/Config.lean ====
section
/-! DEFINITION. What an implementation of the block fixes, and the free values. Every constant that
stands for something the spec leaves open is `opaque` and has no body: no proof can learn its value. -/

namespace Sys2Proof

/-- The parameter `EXP_FORM` (R13): how the exponent of ten is formed from the resonance. -/
inductive ExpForm where
  /-- `t = (-res) / 20.0` -/
  | div20
  /-- `t = 0.05 * (-res)` -/
  | mul005
  deriving DecidableEq, Repr, Inhabited

/-- `NCH` − 1 (00_scope.md §4: `NCH` is OPEN, 1 … 256). DESIGN CHOICE form, log entry 1. -/
opaque Config.nchLessOne : BitVec 8

/-- The number of channels `NCH`, 1 … 256, of the machine that `State.reset` describes. -/
def Config.nch : Nat := Config.nchLessOne.toNat + 1

/-- `MEM_WORDS` − 1 (00_scope.md §4: OPEN, 1 … 2^32), which is also what `MEMSIZE` returns (R47). Log entry 2. -/
opaque Config.memWordsLessOne : BitVec 32

/-- The size of `MEM` in words, 1 … 2^32, of the machine that `State.reset` describes. -/
def Config.memWords : Nat := Config.memWordsLessOne.toNat + 1

/-- `FIFO_DEPTH` − 5 (00_scope.md §4: OPEN, at least 5). Log entry 2. -/
opaque Config.fifoDepthLessFive : Nat

/-- The words each command FIFO holds, at least 5, of the machine that `State.reset` describes. -/
def Config.fifoDepth : Nat := Config.fifoDepthLessFive + 5

/-- `EXP_FORM` (R13: OPEN) of the machine that `State.reset` describes. Log entry 3. -/
opaque Config.expForm : ExpForm

/-- Where `SIN64` takes its results from (R11: an OPEN function). `Machine.sin64` is this function kept to
the properties P2 and P3, so it is any function that has them and no other. Log entry 4. -/
opaque Config.sinRaw : Dword → Dword

/-- Where `COS64` takes its results from (R11). Log entry 4. -/
opaque Config.cosRaw : Dword → Dword

/-- Where `POW10_64` takes its results from (R11). Log entry 4. -/
opaque Config.pow10Raw : Dword → Dword

/-- The free sign and payload of the n-th draw, for a binary64 NaN (R9). Log entry 5. -/
opaque Config.nanDraw64 : Nat → BitVec 52

/-- The free sign and payload of the n-th draw, for a binary32 NaN (R9). Log entry 5. -/
opaque Config.nanDraw32 : Nat → BitVec 23

/-- The word the n-th draw gives, for a read of a word no agent has written (R72). Log entry 6. -/
opaque Config.unwrittenDraw : Nat → Word

/-- The n-th free choice: which of several agents moves next (R80), which of the coefficient registers
left is written or read next (R82, R184). It is used modulo the number of alternatives. Log entry 9. -/
opaque Config.pick : Nat → Nat

end Sys2Proof
end

