-- ==== Sys2Proof/Syntax.lean ====
section
/-! DEFINITION. The commands as syntax: one constructor of `Instr` per row of spec/opcode_table.json
(R102), the header fields (R101), what decoding can answer (R112, R113), and the pseudo-instructions of
the assembly language (R117). -/

namespace Sys2Proof

/-- The seven opcodes (R102). -/
inductive Op where
  | wrp | process | reset | calcCoef | eval | curve | rdcoef
  deriving DecidableEq, Repr

/-- The fields of a header word whose opcode is legal and whose reserved fields are 0 (R101, R110): the
channel (0 for WRP), the selector of WRP (0 for the others) and the silence hint of PROCESS. -/
structure Header where
  op : Op
  ch : BitVec 8
  sel : BitVec 8
  sil : Bool
  deriving DecidableEq, Repr

/-- One command with its operands. Channels and selectors are the header's fields as they stand: the
limits of R106 and R107 are checked when the command is decoded on a port. -/
inductive Instr where
  /-- WRP (R200): write parameter register `sel`. -/
  | wrp (sel : BitVec 8) (value : Word)
  /-- PROCESS (R150): filter `n` samples of channel `ch` from `src` to `dst`. -/
  | process (ch : BitVec 8) (sil : Bool) (src dst n : Word)
  /-- RESET (R170): reset the filter state and cache of channel `ch`. -/
  | reset (ch : BitVec 8)
  /-- CALC (R132): compute coefficients from a normalized frequency and a resonance. -/
  | calcCoef (ch : BitVec 8) (f res : Dword)
  /-- EVAL (R181): the magnitude response at `freq`, written to `dst`. -/
  | eval (ch : BitVec 8) (freq dst : Word)
  /-- CURVE (R182): fill the table of `n` pairs at `a`. -/
  | curve (ch : BitVec 8) (a n : Word)
  /-- RDCOEF (R136): copy the coefficients to the ten words at `dst`. -/
  | rdcoef (ch : BitVec 8) (dst : Word)
  deriving DecidableEq, Repr

/-- Why a header word is no command: the two errors decided from the word alone (R109, R110). -/
inductive DecodeError where
  | illegalOpcode
  | reservedField
  deriving DecidableEq, Repr

/-- What decoding the words at the head of a FIFO answers (R112, R113). -/
inductive Decoded where
  /-- No word. -/
  | empty
  /-- The header word is no command. -/
  | bad (e : DecodeError)
  /-- The header is good, and operand words are still to come. -/
  | short (hd : Header)
  /-- A whole command, and the words behind it. -/
  | ok (i : Instr) (rest : List Word)
  deriving DecidableEq, Repr

/-- The pseudo-instructions (R117). -/
inductive Pseudo where
  | wrcut (value : Word)
  | wrres (value : Word)
  | wrrate (value : Word)
  deriving DecidableEq, Repr

end Sys2Proof
end

