-- ==== Sys2Proof/WellFormed.lean ====
section
/-! DEFINITION. Which commands are well formed for a block of `nch` channels: the selector names one of
the three parameter registers (R107) and the channel exists (R106). An ill-formed command still decodes
and still has its meaning: it raises `BAD_SELECT` or `BAD_CHANNEL` (R211). -/

namespace Sys2Proof

/-- The field limits of R106 and R107. -/
def Instr.wellFormed (nch : Nat) : Instr → Bool
  | .wrp sel _ => decide (sel.toNat ≤ 2)
  | .process ch _ _ _ _ => decide (ch.toNat < nch)
  | .reset ch => decide (ch.toNat < nch)
  | .calcCoef ch _ _ => decide (ch.toNat < nch)
  | .eval ch _ _ => decide (ch.toNat < nch)
  | .curve ch _ _ => decide (ch.toNat < nch)
  | .rdcoef ch _ => decide (ch.toNat < nch)

end Sys2Proof
end

