-- ==== Sys2Proof/Decode.lean ====
section
/-! DEFINITION. Decoding command words, total on any words and rejecting by name (R100–R114), and after it
the encoder, written from the same tables (R101–R105, R117). -/

namespace Sys2Proof

/-- The opcode value of a command (R102). -/
def Op.code : Op → BitVec 8
  | .wrp => 0x01#8
  | .process => 0x10#8
  | .reset => 0x11#8
  | .calcCoef => 0x12#8
  | .eval => 0x20#8
  | .curve => 0x21#8
  | .rdcoef => 0x22#8

/-- The command with an opcode value; none for the illegal ones (R102, R109). -/
def Op.ofCode (c : BitVec 8) : Option Op :=
  if c = 0x01#8 then some .wrp
  else if c = 0x10#8 then some .process
  else if c = 0x11#8 then some .reset
  else if c = 0x12#8 then some .calcCoef
  else if c = 0x20#8 then some .eval
  else if c = 0x21#8 then some .curve
  else if c = 0x22#8 then some .rdcoef
  else none

/-- `LEN(opc)` in words (R103). -/
def Op.len : Op → Nat
  | .wrp => 2
  | .process => 4
  | .reset => 1
  | .calcCoef => 5
  | .eval => 3
  | .curve => 3
  | .rdcoef => 2

/-- Whether only port R may run the command (R102). -/
def Op.renderOnly : Op → Bool
  | .process | .reset | .calcCoef => true
  | .wrp | .eval | .curve | .rdcoef => false

/-- Header bits [31:24] (R101). -/
def headerOpc (h : Word) : BitVec 8 := h.extractLsb' 24 8
/-- Header bits [23:16] (R101). -/
def headerCh (h : Word) : BitVec 8 := h.extractLsb' 16 8
/-- Header bits [15:8] (R101). -/
def headerSel (h : Word) : BitVec 8 := h.extractLsb' 8 8
/-- Header bits [7:0] (R101). -/
def headerFlags (h : Word) : BitVec 8 := h.extractLsb' 0 8

/-- Whether a reserved field is nonzero: the second check of R112 (R106, R107, R108, R110). -/
def reservedNonzero (op : Op) (ch sel fl : BitVec 8) : Bool :=
  match op with
  | .wrp => decide (ch ≠ 0) || decide (fl ≠ 0)
  | .process => decide (sel ≠ 0) || decide (fl.extractLsb' 1 7 ≠ 0)
  | .reset | .calcCoef | .eval | .curve | .rdcoef => decide (sel ≠ 0) || decide (fl ≠ 0)

/-- The first two checks of R112, on the header word alone. -/
def decodeHeader (h : Word) : Except DecodeError Header :=
  match Op.ofCode (headerOpc h) with
  | none => .error .illegalOpcode
  | some op =>
    if reservedNonzero op (headerCh h) (headerSel h) (headerFlags h) then .error .reservedField
    else .ok ⟨op, headerCh h, headerSel h, (headerFlags h).getLsbD 0⟩

/-- `whi ++ wlo`: a binary64 operand from its two words, low word first (R105). -/
def joinWords (wlo whi : Word) : Dword := whi ++ wlo

/-- Bits 31:0 of a binary64 pattern, the word sent and stored first (R73, R105). -/
def lowWord (v : Dword) : Word := v.extractLsb' 0 32

/-- Bits 63:32 of a binary64 pattern, the word sent and stored second (R73, R105). -/
def highWord (v : Dword) : Word := v.extractLsb' 32 32

/-- A good header with its operand words (R104, R105), and the words behind the command; none while
operand words are missing (R113). -/
def operands (hd : Header) (ws : List Word) : Option (Instr × List Word) :=
  match hd.op, ws with
  | .wrp, w1 :: rest => some (.wrp hd.sel w1, rest)
  | .process, w1 :: w2 :: w3 :: rest => some (.process hd.ch hd.sil w1 w2 w3, rest)
  | .reset, rest => some (.reset hd.ch, rest)
  | .calcCoef, w1 :: w2 :: w3 :: w4 :: rest => some (.calcCoef hd.ch (joinWords w1 w2) (joinWords w3 w4), rest)
  | .eval, w1 :: w2 :: rest => some (.eval hd.ch w1 w2, rest)
  | .curve, w1 :: w2 :: rest => some (.curve hd.ch w1 w2, rest)
  | .rdcoef, w1 :: rest => some (.rdcoef hd.ch w1, rest)
  | _, _ => none

/-- The command at the head of a word stream (R112, R113). -/
def decode : List Word → Decoded
  | [] => .empty
  | h :: ws =>
    match decodeHeader h with
    | .error e => .bad e
    | .ok hd =>
      match operands hd ws with
      | some (i, rest) => .ok i rest
      | none => .short hd

/-- The whole command at the head of a FIFO, if there is one (R112). -/
def headCommand (ws : List Word) : Option Instr :=
  match decode ws with
  | .ok i _ => some i
  | .empty | .bad _ | .short _ => none

/-- The header of a command. -/
def Instr.header : Instr → Header
  | .wrp sel _ => ⟨.wrp, 0, sel, false⟩
  | .process ch sil _ _ _ => ⟨.process, ch, 0, sil⟩
  | .reset ch => ⟨.reset, ch, 0, false⟩
  | .calcCoef ch _ _ => ⟨.calcCoef, ch, 0, false⟩
  | .eval ch _ _ => ⟨.eval, ch, 0, false⟩
  | .curve ch _ _ => ⟨.curve, ch, 0, false⟩
  | .rdcoef ch _ => ⟨.rdcoef, ch, 0, false⟩

/-- The command's length in words (R103). -/
def Instr.len (i : Instr) : Nat := i.header.op.len

/-- `OPC ++ CH ++ SEL ++ FLAGS` (R101), with `SIL` in bit 0 (R108). -/
def encodeHeader (hd : Header) : Word :=
  hd.op.code ++ hd.ch ++ hd.sel ++ (0#7 ++ BitVec.ofBool hd.sil)

/-- The operand words of a command, in stream order (R102, R105). -/
def Instr.operandWords : Instr → List Word
  | .wrp _ value => [value]
  | .process _ _ src dst n => [src, dst, n]
  | .reset _ => []
  | .calcCoef _ f res => [lowWord f, highWord f, lowWord res, highWord res]
  | .eval _ freq dst => [freq, dst]
  | .curve _ a n => [a, n]
  | .rdcoef _ dst => [dst]

/-- The words of a command (R100). -/
def encode (i : Instr) : List Word := encodeHeader i.header :: i.operandWords

/-- The one WRP a pseudo-instruction expands to (R117). -/
def Pseudo.expand : Pseudo → Instr
  | .wrcut value => .wrp 0 value
  | .wrres value => .wrp 1 value
  | .wrrate value => .wrp 2 value

/-- The five words of a longest command whose bits are `w`, numbered as spec/opcode_table.json numbers
them, every bit from `nbits` up being 0: word k is bits 32k+31 … 32k. -/
def tableWords (nbits w : Nat) : List Word :=
  let v := w % 2 ^ nbits
  [BitVec.ofNat 32 v, BitVec.ofNat 32 (v / 2 ^ 32), BitVec.ofNat 32 (v / 2 ^ 64),
   BitVec.ofNat 32 (v / 2 ^ 96), BitVec.ofNat 32 (v / 2 ^ 128)]

/-- The words of the ONE command that `tableWords` begins with (all five where they begin with none): a
FIFO that holds them holds nothing behind the command. -/
def tableCommandWords (nbits w : Nat) : List Word :=
  match decode (tableWords nbits w) with
  | .ok i _ => (tableWords nbits w).take i.len
  | .empty | .bad _ | .short _ => tableWords nbits w

/-- The instruction the decoder reads from the words of a table row; none where it refuses. -/
def decodeTableWord (nbits w : Nat) : Option Instr :=
  match decode (tableWords nbits w) with
  | .ok i _ => some i
  | .empty | .bad _ | .short _ => none

end Sys2Proof
end

