-- ==== Sys2Proof/Machine/State.lean ====
section
/-! DEFINITION. Everything the spec gives the machine, as plain data (10_state.md R30–R50), with the model's
own fields named as such; why a step can stop; the state after power-on reset (R49, R240). -/

namespace Sys2Proof.Machine

/-- The two command ports (R30, R79): R is the render path, D the display path. -/
inductive Port where
  | R | D
  deriving DecidableEq, Repr, Inhabited

/-- The error codes of R211; codes 11 to 15 are never written. -/
inductive ErrCode where
  | none | illegalOpcode | reservedField | port | badChannel | badSelect
  | addrRange | uninitParam | uninitCoef | domain | degenerate
  deriving DecidableEq, Repr, Inhabited

/-- The five coefficient registers of a channel, by name (R34). -/
inductive CoefReg where
  | a0 | a1 | a2 | b1 | b2
  deriving DecidableEq, Repr

/-- A set of five coefficients, binary64 patterns (R34). -/
structure Coefs where
  a0 : Dword
  a1 : Dword
  a2 : Dword
  b1 : Dword
  b2 : Dword
  deriving DecidableEq, Repr

/-- One channel's kernel register set (R30 (a)): coefficients (R34), `COEF_VALID` (R35), filter state (R36) and
cache (R37). -/
structure Kernel where
  coef : Coefs
  valid : Bool
  x1 : Dword
  x2 : Dword
  y1 : Dword
  y2 : Dword
  lastF : Dword
  lastR : Dword
  deriving DecidableEq, Repr

/-- The three host parameter registers, binary32 patterns, with their valid flags (R39). -/
structure Params where
  cut : Word
  res : Word
  rate : Word
  cutValid : Bool
  resValid : Bool
  rateValid : Bool
  deriving DecidableEq, Repr

/-- What follows the sixth step of a coefficient write (R131): CALC is finished; PROCESS writes its cache
and goes on to its samples. -/
inductive AfterCoef where
  | finish
  | filter (f res : Dword) (src dst n : Nat)
  deriving DecidableEq, Repr

/-- Where a magnitude goes (R181, R182): EVAL's `dst`, or the entry at `a` of a CURVE with `left` entries to
do, this one included. -/
inductive AfterMag where
  | finish (dst : Nat)
  | entry (a left : Nat)
  deriving DecidableEq, Repr

/-- How far a command's atomic steps (R81) have come: what its port does next. -/
inductive Job where
  /-- The coefficient registers still to write (R82 (e)); with none left, the `COEF_VALID` step (R131). -/
  | coefWrite (ch : BitVec 8) (todo : List (CoefReg × Dword)) (next : AfterCoef)
  /-- The next `MemRead` of a sample (R155), `left` samples to do. -/
  | sampleIn (ch : BitVec 8) (src dst left : Nat)
  /-- The `MemWrite` of the sample just computed (R155). -/
  | sampleOut (ch : BitVec 8) (src dst left : Nat) (out : Word)
  /-- EVAL's read of `COEF_VALID`, its `P_RATE` word taken (R181). -/
  | evalValid (ch : BitVec 8) (dst : Nat) (rate freq : Word)
  /-- CURVE's read of `COEF_VALID` (R182). -/
  | curveValid (ch : BitVec 8) (a left : Nat)
  /-- CURVE's `MemRead` of an entry's frequency (R182). -/
  | curveIn (ch : BitVec 8) (a left : Nat)
  /-- CURVE's read of `P_RATE` for an entry (R185). -/
  | curveRate (ch : BitVec 8) (a left : Nat) (freq : Word)
  /-- The coefficient registers `MAG` still has to read (R184), and what it has read; with none left, the `MemWrite`
  of the magnitude. -/
  | magRead (ch : BitVec 8) (todo : List CoefReg) (got : Coefs) (rate freq : Word) (next : AfterMag)
  /-- The coefficient registers RDCOEF still has to read (R136), and what it has read. -/
  | rdRead (ch : BitVec 8) (todo : List CoefReg) (got : Coefs) (dst : Nat)
  /-- The words RDCOEF still has to write, in address order (R136). -/
  | rdWrite (dst : Nat) (words : List Word)
  deriving DecidableEq, Repr

/-- A command port: command pointer (R31), FIFO (R32), error state (R41), and the command executing (R49). -/
structure PortState where
  cp : Word
  fifo : List Word
  err : Bool
  errCode : ErrCode
  errCp : Word
  job : Option Job
  deriving DecidableEq, Repr

/-- What the host does next (R252). Register accesses carry a byte offset from `MMIO_BASE` and a size in bytes,
memory accesses a byte offset from `MEM_BASE` and a size in bytes; power-on reset is R240. -/
inductive HostMove where
  | regWrite (off size : Nat) (w : Word)
  | regRead (off size : Nat)
  | memWrite (off size : Nat) (w : Word)
  | memRead (off size : Nat)
  | powerOn
  deriving DecidableEq, Repr

/-- What is fixed for a run (R242, 00_scope.md §4): `MEM_WORDS`, `FIFO_DEPTH` and `EXP_FORM`. `NCH` is the number
of kernels. No step changes it. -/
structure Cfg where
  memWords : Nat
  fifoDepth : Nat
  expForm : ExpForm
  deriving DecidableEq, Repr

/-- The machine. The fields `cur`, `host`, `returned`, `unseen`, `errorsSeen`, `draws` and `ticks` are the
model's own (log entries 19, 13, 14, 18, 18, 27); all others are the spec's (R30). -/
structure State where
  /-- The kernel register sets; their number is `NCH` (R1, R33). -/
  kernels : List Kernel
  /-- The host parameter registers (R39). -/
  params : Params
  /-- Port R (R31, R32, R41). -/
  portR : PortState
  /-- Port D (R31, R32, R41). -/
  portD : PortState
  /-- The counter of coefficient computations (R46). -/
  ncoef : Word
  /-- `MEM` (R70) in the byte view of R73: written bytes by byte address, addresses strictly rising. A byte
  that is not listed holds no value (R72). -/
  mem : List Host.Cell
  /-- `MEM_WORDS`, `FIFO_DEPTH`, `EXP_FORM`. -/
  cfg : Cfg
  /-- The port whose command `exec` runs. -/
  cur : Port
  /-- The host's coming moves, oldest first. -/
  host : List HostMove
  /-- The words the host's reads have returned, newest first. -/
  returned : List Word
  /-- The commands that have completed and whose completion the host has not seen yet (R248, R249), oldest first, each
  with its port. -/
  unseen : List (Port × Instr)
  /-- The ports whose error the host has read in `STATUS_P` and has not cleared yet (R252), without repeats. -/
  errorsSeen : List Port
  /-- Free draws made so far (R9, R72). -/
  draws : Nat
  /-- Free scheduling choices made so far (R80, R82, R184). -/
  ticks : Nat
  deriving DecidableEq, Repr

/-- The three agents (R30, R79). -/
inductive Agent where
  | port (p : Port)
  | host
  deriving DecidableEq, Repr

/-- What a port without a command in progress finds at the head of its FIFO (R112, R113): nothing, a command
whose operand words are still to come, an error decided from the header, or a whole command. -/
inductive Fetch where
  | nothing
  | wait
  | error (c : ErrCode)
  | command (i : Instr)
  deriving DecidableEq, Repr

/-- Why the machine stops with a fault. No command raises one: they stand for states in which no agent has a
step and which are not the end of a run (93_implementation_defined.md §1, §2), and for a host access
to a word that does not exist. -/
inductive Fault where
  /-- Raised by `step`: a port has `ERR` = 1 and no agent can move (R210, R215). Safe: the block waits there for a
  host that has no moves left. -/
  | portHalted
  /-- Raised by `step`: a command's operand words have not been pushed and no agent can move (R113). Safe. -/
  | operandsMissing
  /-- Raised by a host access to `MEM` at a word address of `MEM_WORDS` or more (R70). Safe: the word
  does not exist. -/
  | hostMemRange
  deriving DecidableEq, Repr

/-- Why the machine refuses a move. -/
inductive Refusal where
  /-- Raised by an arm of `exec` whose instruction has no meaning yet; no arm does. Safe. -/
  | notModelled (mnemonic : String)
  /-- Raised by a host register access that is not 32 bits wide at a 4-aligned offset of 0x00 … 0xFC: R48 says
  a model refuses it. Safe. -/
  | hostRegisterAccess
  /-- Raised by a host access to `MEM` that is not one whole aligned word: R75 says a model refuses it. Safe. -/
  | hostMemAccess
  /-- Raised by a host write to a `MEM` word that a pushed command reads or writes, until the host has seen that the
  command completed (R249) or handles an error of its port (R252): R248 gives the host no such move. UNSAFE as R248 says: a claim says nothing of a
  host that makes it (log entry 18). -/
  | hostRace
  deriving DecidableEq, Repr

/-- How the rule of a command ends: the state it leaves when it completes, or its error code with the
state it leaves (R212; only a CURVE leaves a changed one, R213). -/
inductive Ended where
  | done (s : State)
  | failed (c : ErrCode) (s : State)
  deriving DecidableEq, Repr

/-- The sentinel −1.0 (R37). -/
def sentinel : Dword := 0xBFF0000000000000#64

/-- A channel's kernel after power-on reset (R49): zero filter state, the sentinel in the cache, no valid
coefficients. DESIGN CHOICE (log entry 7): the coefficient registers, which R49 leaves unspecified, hold 0. -/
def Kernel.created : Kernel :=
  { coef := ⟨0, 0, 0, 0, 0⟩, valid := false, x1 := 0, x2 := 0, y1 := 0, y2 := 0, lastF := sentinel, lastR := sentinel }

/-- The parameter registers after power-on reset (R49). DESIGN CHOICE (log entry 8): the values, which R49 leaves
unspecified, are 0. -/
def Params.created : Params :=
  { cut := 0, res := 0, rate := 0, cutValid := false, resValid := false, rateValid := false }

/-- A port after power-on reset (R49): empty FIFO, `CP` 0, no error, no command executing. -/
def PortState.created : PortState :=
  { cp := 0, fifo := [], err := false, errCode := .none, errCp := 0, job := none }

/-- The machine after first power-up with `nch` channels and a given configuration (R49, R240), `MEM` unwritten,
and a host that has no moves. -/
def State.resetWith (nch : Nat) (cfg : Cfg) : State :=
  { kernels := List.replicate nch Kernel.created
    params := Params.created
    portR := PortState.created
    portD := PortState.created
    ncoef := 0
    mem := []
    cfg := cfg
    cur := .R
    host := []
    returned := []
    unseen := []
    errorsSeen := []
    draws := 0
    ticks := 0 }

/-- The machine right after first power-up (R49, R240), with the parameters that the spec leaves open
as the free values of Config (log entries 1 to 3). -/
def State.reset : State :=
  State.resetWith Config.nch ⟨Config.memWords, Config.fifoDepth, Config.expForm⟩

end Sys2Proof.Machine
end

