-- ==== Sys2Proof/Machine/Float.lean ====
section
/-! DEFINITION. The floating-point numerics of 00_scope.md R4–R14: IEEE 754 binary32 and binary64, every operation
rounded to nearest with ties to even, gradual underflow, no flags. A pattern is decoded to an exact value,
the operation is done exactly on integers, and the result is rounded once. The definitions are those of IEEE 754
(R5), PRESUMED as the spec itself marks them (log entry 21). -/

namespace Sys2Proof.Machine

/-- A binary format: widths of the biased exponent and of the fraction (R4). -/
structure FloatFmt where
  ebits : Nat
  fbits : Nat
  deriving DecidableEq, Repr

/-- binary32: exponent at 30:23, fraction at 22:0 (R4). -/
def binary32 : FloatFmt := ⟨8, 23⟩

/-- binary64: exponent at 62:52, fraction at 51:0 (R4). -/
def binary64 : FloatFmt := ⟨11, 52⟩

/-- The magnitude bits of an infinity. -/
def FloatFmt.infBits (F : FloatFmt) : Nat := (2 ^ F.ebits - 1) * 2 ^ F.fbits

/-- The weight of the sign bit. -/
def FloatFmt.signBit (F : FloatFmt) : Nat := 2 ^ (F.ebits + F.fbits)

/-- The exponent of the last place of a subnormal: −149 for binary32, −1074 for binary64. -/
def FloatFmt.emin (F : FloatFmt) : Int := 2 - 2 ^ (F.ebits - 1) - F.fbits

/-- An exact value: a NaN, an infinity, or (−1)^neg · m · 2^e. -/
inductive FloatVal where
  | nan
  | inf (neg : Bool)
  | fin (neg : Bool) (m : Nat) (e : Int)
  deriving DecidableEq, Repr

/-- The exact value of a pattern (R4). -/
def FloatFmt.unpack (F : FloatFmt) (bits : Nat) : FloatVal :=
  let neg := bits / F.signBit % 2 == 1
  let ex := bits / 2 ^ F.fbits % 2 ^ F.ebits
  let fr := bits % 2 ^ F.fbits
  if ex = 2 ^ F.ebits - 1 then
    if fr = 0 then .inf neg else .nan
  else if ex = 0 then .fin neg fr F.emin
  else .fin neg (2 ^ F.fbits + fr) (ex - 1 + F.emin)

/-- A pattern from its sign and magnitude bits. -/
def FloatFmt.withSign (F : FloatFmt) (neg : Bool) (mag : Nat) : Nat :=
  if neg then F.signBit + mag else mag

/-- `m / 2^k` rounded to the nearest integer, ties to even. -/
def roundShift (m k : Nat) : Nat :=
  match k with
  | 0 => m
  | j + 1 =>
    let lo := m / 2 ^ (j + 1)
    let r := m % 2 ^ (j + 1)
    if 2 ^ j < r ∨ (r = 2 ^ j ∧ lo % 2 = 1) then lo + 1 else lo

/-- The exponent of the last place in which a magnitude `m · 2^e`, `m > 0`, is held: `fbits` places below its
leading bit, but not below the subnormals' (R8). -/
def FloatFmt.lastPlace (F : FloatFmt) (m : Nat) (e : Int) : Int :=
  if e + m.log2 - F.fbits < F.emin then F.emin else e + m.log2 - F.fbits

/-- The magnitude bits of `m · 2^e` rounded to nearest, ties to even: gradual underflow, overflow to
infinity (R5, R7, R8). The biased exponent and the fraction are one number, into which a carry out of
the fraction runs by itself. -/
def FloatFmt.roundMag (F : FloatFmt) (m : Nat) (e : Int) : Nat :=
  if m = 0 then 0
  else
    let q := F.lastPlace m e
    let sig := if e < q then roundShift m (q - e).toNat else m * 2 ^ (e - q).toNat
    let mag := (q - F.emin).toNat * 2 ^ F.fbits + sig
    if F.infBits ≤ mag then F.infBits else mag

/-- The pattern of a NaN inside a computation. Which NaN is of no effect there: each NaN that is WRITTEN gets
its sign and payload from a free draw (R9; `State.fresh64`, `State.fresh32`; log entry 5). -/
def FloatFmt.nanBits (F : FloatFmt) : Nat := F.infBits + 2 ^ (F.fbits - 1)

/-- An exact value rounded to a format. -/
def FloatFmt.pack (F : FloatFmt) : FloatVal → Nat
  | .nan => F.nanBits
  | .inf neg => F.withSign neg F.infBits
  | .fin neg m e => F.withSign neg (F.roundMag m e)

/-- Sign change: exact, also for zeros and NaNs (R13). -/
def FloatVal.neg : FloatVal → FloatVal
  | .nan => .nan
  | .inf s => .inf (!s)
  | .fin s m e => .fin (!s) m e

/-- The signed integer `±m · 2^(e - lo)`, for `lo ≤ e`. -/
def scaled (neg : Bool) (m : Nat) (e lo : Int) : Int :=
  let a : Int := m * 2 ^ (e - lo).toNat
  if neg then -a else a

/-- The smaller of two exponents. -/
def minExp (e f : Int) : Int := if e ≤ f then e else f

/-- IEEE addition, exact (R5). A zero sum is −0 only when both operands are −0 (round to nearest). -/
def FloatVal.add : FloatVal → FloatVal → FloatVal
  | .nan, _ => .nan
  | _, .nan => .nan
  | .inf s, .inf t => if s = t then .inf s else .nan
  | .inf s, .fin _ _ _ => .inf s
  | .fin _ _ _, .inf t => .inf t
  | .fin s m e, .fin t n f =>
    let lo := minExp e f
    let sum := scaled s m e lo + scaled t n f lo
    if sum = 0 then .fin (s && t) 0 lo else .fin (decide (sum < 0)) sum.natAbs lo

/-- IEEE multiplication, exact (R5). -/
def FloatVal.mul : FloatVal → FloatVal → FloatVal
  | .nan, _ => .nan
  | _, .nan => .nan
  | .inf s, .inf t => .inf (s ^^ t)
  | .inf s, .fin t n _ => if n = 0 then .nan else .inf (s ^^ t)
  | .fin s m _, .inf t => if m = 0 then .nan else .inf (s ^^ t)
  | .fin s m e, .fin t n f => .fin (s ^^ t) (m * n) (e + f)

/-- `q` with a sticky bit below it: the value rounds as the exact one does. -/
def sticky (q : Nat) (inexact : Bool) : Nat := 2 * q + (if inexact then 1 else 0)

/-- The binary places a quotient or a root is carried to before its sticky bit, an even number: far more than the 53
of binary64 for any significands of binary64. -/
def extraBits : Nat := 120

/-- IEEE division (R5), the quotient cut far below the last place of the result with a sticky bit. -/
def FloatVal.div : FloatVal → FloatVal → FloatVal
  | .nan, _ => .nan
  | _, .nan => .nan
  | .inf _, .inf _ => .nan
  | .inf s, .fin t _ _ => .inf (s ^^ t)
  | .fin s _ e, .inf t => .fin (s ^^ t) 0 e
  | .fin s m e, .fin t n f =>
    if n = 0 then (if m = 0 then .nan else .inf (s ^^ t))
    else
      let a := m * 2 ^ extraBits
      .fin (s ^^ t) (sticky (a / n) (a % n != 0)) (e - f - extraBits - 1)

/-- The integer square root of `n < 4^k`, bit by bit from the top, on top of the root `r` found so far. -/
def isqrtFrom : Nat → Nat → Nat → Nat
  | 0, _, r => r
  | k + 1, n, r => if (r + 2 ^ k) * (r + 2 ^ k) ≤ n then isqrtFrom k n (r + 2 ^ k) else isqrtFrom k n r

/-- IEEE square root (R11: correctly rounded), the root cut far below the last place with a sticky bit. −0 has the
root −0; any other negative has none. -/
def FloatVal.sqrt : FloatVal → FloatVal
  | .nan => .nan
  | .inf s => if s then .nan else .inf false
  | .fin s m e =>
    if m = 0 then .fin s 0 e
    else if s then .nan
    else
      let k := extraBits + (e % 2).toNat
      let a := m * 2 ^ k
      let r := isqrtFrom 96 a 0
      .fin false (sticky r (r * r != a)) ((e - k) / 2 - 1)

/-- IEEE `<` (R10): false when an operand is a NaN. -/
def FloatVal.lt : FloatVal → FloatVal → Bool
  | .nan, _ => false
  | _, .nan => false
  | .inf s, .inf t => s && !t
  | .inf s, .fin _ _ _ => s
  | .fin _ _ _, .inf t => !t
  | .fin s m e, .fin t n f => decide (scaled s m e (minExp e f) < scaled t n f (minExp e f))

/-- IEEE `==` (R10): false when an operand is a NaN; the two zeros are equal. -/
def FloatVal.eq : FloatVal → FloatVal → Bool
  | .nan, _ => false
  | _, .nan => false
  | .inf s, .inf t => s == t
  | .inf _, .fin _ _ _ => false
  | .fin _ _ _, .inf _ => false
  | .fin s m e, .fin t n f => decide (scaled s m e (minExp e f) = scaled t n f (minExp e f))

/-! ## binary64 operations on patterns -/

/-- The exact value of a binary64 pattern. -/
def val64 (a : Dword) : FloatVal := binary64.unpack a.toNat

/-- The binary64 pattern nearest a value. -/
def pack64 (v : FloatVal) : Dword := BitVec.ofNat 64 (binary64.pack v)

/-- binary64 `+` (R5). -/
def add64 (a b : Dword) : Dword := pack64 ((val64 a).add (val64 b))
/-- binary64 `-` (R5). -/
def sub64 (a b : Dword) : Dword := pack64 ((val64 a).add (val64 b).neg)
/-- binary64 `*` (R5). -/
def mul64 (a b : Dword) : Dword := pack64 ((val64 a).mul (val64 b))
/-- binary64 `/` (R5). -/
def div64 (a b : Dword) : Dword := pack64 ((val64 a).div (val64 b))
/-- `SQRT64` (R11). -/
def sqrt64 (a : Dword) : Dword := pack64 (val64 a).sqrt
/-- Negation flips the sign bit (R13). -/
def neg64 (a : Dword) : Dword := a ^^^ 0x8000000000000000#64

/-- `<` (R10); `a > b` is `lt64 b a`. -/
def lt64 (a b : Dword) : Bool := (val64 a).lt (val64 b)
/-- `==` (R10); `!=` is its negation. -/
def eq64 (a b : Dword) : Bool := (val64 a).eq (val64 b)
/-- `<=` (R10). -/
def le64 (a b : Dword) : Bool := lt64 a b || eq64 a b

/-- `isNaN` (R10). -/
def isNaN64 (a : Dword) : Bool :=
  match val64 a with
  | .nan => true
  | .inf _ => false
  | .fin _ _ _ => false

/-- `isFinite` (R10). -/
def isFinite64 (a : Dword) : Bool :=
  match val64 a with
  | .nan => false
  | .inf _ => false
  | .fin _ _ _ => true

/-- Whether a binary32 pattern is a NaN (R4). -/
def isNaN32 (a : Word) : Bool :=
  match binary32.unpack a.toNat with
  | .nan => true
  | .inf _ => false
  | .fin _ _ _ => false

/-- `to64` (R7): exact. -/
def to64 (w : Word) : Dword := pack64 (binary32.unpack w.toNat)

/-- `round32` (R7), as the 32-bit word `bits32` gives. -/
def round32 (v : Dword) : Word := BitVec.ofNat 32 (binary32.pack (val64 v))

/-! ## Constants (R12) -/

/-- The binary64 value nearest π. -/
def pi64 : Dword := 0x400921FB54442D18#64
/-- The binary64 value nearest 0.99. -/
def c099 : Dword := 0x3FEFAE147AE147AE#64
/-- The binary64 value nearest 0.05 (`EXP_FORM = MUL005`). -/
def c005 : Dword := 0x3FA999999999999A#64
/-- 0.25 -/
def quarter : Dword := 0x3FD0000000000000#64
/-- 0.5 -/
def half : Dword := 0x3FE0000000000000#64
/-- 1.0 -/
def one : Dword := 0x3FF0000000000000#64
/-- 2.0 -/
def two : Dword := 0x4000000000000000#64
/-- 4.0 -/
def four : Dword := 0x4010000000000000#64
/-- −2.0 -/
def minusTwo : Dword := 0xC000000000000000#64
/-- −1.0 -/
def minusOne : Dword := 0xBFF0000000000000#64
/-- 12.0 -/
def twelve : Dword := 0x4028000000000000#64
/-- 20.0 -/
def twenty : Dword := 0x4034000000000000#64
/-- −20.0 -/
def minusTwenty : Dword := 0xC034000000000000#64

/-! ## The transcendental parameters (R11)

Each is the free function of Config kept to the properties P2 and P3. A function that has the properties is left as
it is, so the three are any functions that have them; P1 holds because they are functions. Log entry 4. -/

/-- A pattern made a quiet NaN, its sign and payload kept. -/
def asNaN64 (v : Dword) : Dword := v ||| 0x7FF8000000000000#64

/-- Whether a pattern is a number in [−1.0, 1.0]. -/
def inUnit (v : Dword) : Bool := le64 minusOne v && le64 v one

/-- `SIN64` (R11): a NaN for a NaN, +0.0 at +0.0, within [−1, 1] for a finite argument. -/
def sin64 (x : Dword) : Dword :=
  if x = 0 then 0
  else if isNaN64 x then asNaN64 (Config.sinRaw x)
  else if isFinite64 x && !inUnit (Config.sinRaw x) then 0
  else Config.sinRaw x

/-- `COS64` (R11): a NaN for a NaN, 1.0 at +0.0, within [−1, 1] for a finite argument. -/
def cos64 (x : Dword) : Dword :=
  if x = 0 then one
  else if isNaN64 x then asNaN64 (Config.cosRaw x)
  else if isFinite64 x && !inUnit (Config.cosRaw x) then 0
  else Config.cosRaw x

/-- Whether a pattern is +0.0, positive, or +infinity. -/
def nonNegative (v : Dword) : Bool := !v.msb && !isNaN64 v

/-- `POW10_64` (R11): a NaN for a NaN, 1.0 at ±0.0, not negative for a finite argument. -/
def pow10 (x : Dword) : Dword :=
  if eq64 x 0 then one
  else if isNaN64 x then asNaN64 (Config.pow10Raw x)
  else if isFinite64 x && !nonNegative (Config.pow10Raw x) then one
  else Config.pow10Raw x

/-! ## Written NaNs (R9) -/

/-- A quiet binary64 NaN with a given sign and payload. -/
def quietNaN64 (d : BitVec 52) : Dword := d.extractLsb' 51 1 ++ 0xFFF#12 ++ d.extractLsb' 0 51

/-- A quiet binary32 NaN with a given sign and payload. -/
def quietNaN32 (d : BitVec 23) : Word := d.extractLsb' 22 1 ++ 0x1FF#9 ++ d.extractLsb' 0 22

end Sys2Proof.Machine
end

