-- ==== Sys2Proof/Machine/Ops.lean ====
section
/-! DEFINITION. The named operations over registers, memory and ports: every meaning reads and writes the state
through these. Among them the block's one exception mechanism: raising a command error (R212) and, beside it, the
clear that returns from it (R216). -/

namespace Sys2Proof.Machine

/-! ## Fields -/

/-- The kernels replaced. -/
def State.setKernels (ks : List Kernel) (s : State) : State := { s with kernels := ks }
/-- The parameter registers replaced. -/
def State.setParams (p : Params) (s : State) : State := { s with params := p }
/-- `NCOEF` replaced. -/
def State.setNcoef (n : Word) (s : State) : State := { s with ncoef := n }
/-- `MEM` replaced. -/
def State.setMem (m : List Host.Cell) (s : State) : State := { s with mem := m }
/-- The port whose command runs. -/
def State.setCur (p : Port) (s : State) : State := { s with cur := p }
/-- The host's coming moves. -/
def State.setHost (h : List HostMove) (s : State) : State := { s with host := h }
/-- The words returned to the host. -/
def State.setReturned (r : List Word) (s : State) : State := { s with returned := r }
/-- The commands whose completion the host has not seen. -/
def State.setUnseen (u : List (Port × Instr)) (s : State) : State := { s with unseen := u }
/-- The ports whose error the host has seen and not cleared. -/
def State.setErrorsSeen (l : List Port) (s : State) : State := { s with errorsSeen := l }
/-- The count of free draws. -/
def State.setDraws (n : Nat) (s : State) : State := { s with draws := n }
/-- The count of free choices. -/
def State.setTicks (n : Nat) (s : State) : State := { s with ticks := n }

/-- A port's state. -/
def State.portState (s : State) : Port → PortState
  | .R => s.portR
  | .D => s.portD

/-- A port's state replaced. -/
def State.setPort (p : Port) (ps : PortState) (s : State) : State :=
  match p with
  | .R => { s with portR := ps }
  | .D => { s with portD := ps }

/-! ## Kernel registers (R33) -/

/-- `NCH`. -/
def State.nch (s : State) : Nat := s.kernels.length

/-- The kernel of a channel. A command uses it only for a channel below `NCH` (R106). -/
def State.kernel (s : State) (ch : BitVec 8) : Kernel := (s.kernels[ch.toNat]?).getD Kernel.created

/-- The kernel of a channel replaced; the other channels are untouched (R33). -/
def State.setKernel (ch : BitVec 8) (k : Kernel) (s : State) : State := s.setKernels (s.kernels.set ch.toNat k)

/-- One coefficient of a set (R34). -/
def Coefs.get (c : Coefs) : CoefReg → Dword
  | .a0 => c.a0
  | .a1 => c.a1
  | .a2 => c.a2
  | .b1 => c.b1
  | .b2 => c.b2

/-- One coefficient of a set replaced (R34). -/
def Coefs.set (r : CoefReg) (v : Dword) (c : Coefs) : Coefs :=
  match r with
  | .a0 => { c with a0 := v }
  | .a1 => { c with a1 := v }
  | .a2 => { c with a2 := v }
  | .b1 => { c with b1 := v }
  | .b2 => { c with b2 := v }

/-- One coefficient register written: one atomic step (R81 (e)). -/
def State.writeCoefReg (ch : BitVec 8) (r : CoefReg) (v : Dword) (s : State) : State :=
  s.setKernel ch { s.kernel ch with coef := (s.kernel ch).coef.set r v }

/-- The sixth step of a coefficient write: `COEF_VALID[ch]` ← 1 and `NCOEF` + 1 modulo 2^32 (R131, R46). -/
def State.validateCoef (ch : BitVec 8) (s : State) : State :=
  (s.setKernel ch { s.kernel ch with valid := true }).setNcoef (s.ncoef + 1)

/-! ## Memory (R70–R73) -/

/-- The byte held at a byte address; none where nothing has been written. -/
def memByte? : List Host.Cell → Nat → Option (BitVec 8)
  | [], _ => none
  | (a, b) :: m, x => if x = a then some b else memByte? m x

/-- A byte written, the addresses kept strictly rising. -/
def putByte : List Host.Cell → Nat → BitVec 8 → List Host.Cell
  | [], x, v => [(x, v)]
  | (a, b) :: m, x, v =>
    if x < a then (x, v) :: (a, b) :: m
    else if x = a then (x, v) :: m
    else (a, b) :: putByte m x v

/-- The canonical form of `MEM`: addresses strictly rising. (Every listed byte differs from what an unlisted
address reads as, which is no value.) -/
def Memory.wf : List Host.Cell → Bool
  | [] => true
  | [_] => true
  | (a, _) :: (b, v) :: m => decide (a < b) && Memory.wf ((b, v) :: m)

/-- Byte `k` of a word in the little-endian byte view: byte 0 is bits 7:0 (R73). -/
def byteOf (w : Word) (k : Nat) : BitVec 8 := w.extractLsb' (8 * k) 8

/-- The word last written at a word address, bytes `4a` … `4a+3` (R71, R73); none where no agent has written
it. -/
def memWord? (m : List Host.Cell) (a : Nat) : Option Word :=
  match memByte? m (4 * a), memByte? m (4 * a + 1), memByte? m (4 * a + 2), memByte? m (4 * a + 3) with
  | some b0, some b1, some b2, some b3 => some (b3 ++ b2 ++ b1 ++ b0)
  | _, _, _, _ => none

/-- A word written at a word address (R71, R73). -/
def putWord (m : List Host.Cell) (a : Nat) (w : Word) : List Host.Cell :=
  putByte (putByte (putByte (putByte m (4 * a) (byteOf w 0)) (4 * a + 1) (byteOf w 1)) (4 * a + 2) (byteOf w 2))
    (4 * a + 3) (byteOf w 3)

/-- `MemRead(a, 1)` (R71): the word last written, or a fresh free draw where there is none (R72). -/
def State.memRead (a : Nat) (s : State) : Word × State :=
  match memWord? s.mem a with
  | some w => (w, s)
  | none => (Config.unwrittenDraw s.draws, s.setDraws (s.draws + 1))

/-- `MemWrite(a, 1, w)` (R71). -/
def State.memWrite (a : Nat) (w : Word) (s : State) : State := s.setMem (putWord s.mem a w)

/-- Words written at consecutive addresses, in address order. -/
def State.memWrites (a : Nat) : List Word → State → State
  | [], s => s
  | w :: ws, s => State.memWrites (a + 1) ws (s.memWrite a w)

/-! ## Free draws -/

/-- A binary64 result as it is written to a register: a NaN gets a fresh sign and payload (R9). -/
def State.fresh64 (v : Dword) (s : State) : Dword × State :=
  if isNaN64 v then (quietNaN64 (Config.nanDraw64 s.draws), s.setDraws (s.draws + 1)) else (v, s)

/-- A binary32 result as it is written to memory: a NaN gets a fresh sign and payload (R9). -/
def State.fresh32 (w : Word) (s : State) : Word × State :=
  if isNaN32 w then (quietNaN32 (Config.nanDraw32 s.draws), s.setDraws (s.draws + 1)) else (w, s)

/-- The five results of a coefficient computation as they are written (R9). -/
def State.freshCoefs (c : Coefs) (s : State) : Coefs × State :=
  let (a0, s1) := s.fresh64 c.a0
  let (a1, s2) := s1.fresh64 c.a1
  let (a2, s3) := s2.fresh64 c.a2
  let (b1, s4) := s3.fresh64 c.b1
  let (b2, s5) := s4.fresh64 c.b2
  (⟨a0, a1, a2, b1, b2⟩, s5)

/-- A free choice among `n` alternatives, `n` > 0 (R80, R82, R184). -/
def State.choose (n : Nat) (s : State) : Nat × State := (Config.pick s.ticks % n, s.setTicks (s.ticks + 1))

/-! ## Completion, error and clear -/

/-- A command of `len` words completes on the running port: its words leave the FIFO and `CP` advances modulo 2^32
(R31, R112, R114). The host has not seen it yet (R249). -/
def State.complete (len : Nat) (s : State) : State :=
  let ps := s.portState s.cur
  (s.setPort s.cur { ps with fifo := ps.fifo.drop len, cp := ps.cp + BitVec.ofNat 32 len, job := none }).setUnseen
    (s.unseen ++ (headCommand ps.fifo).toList.map (s.cur, ·))

/-- `raise CmdError(code)` on the running port (R212): `ERR` ← 1, `ERRCODE` ← code, `ERRCP` ← `CP`; `CP` and the FIFO stay.
The port is halted (R215). -/
def State.raise (c : ErrCode) (s : State) : State :=
  let ps := s.portState s.cur
  s.setPort s.cur { ps with err := true, errCode := c, errCp := ps.cp, job := none }

/-- The host's clear of a port with `ERR` = 1, the return from an error (R216): the FIFO is flushed, `CP` advances by the
words removed, `ERR` and `ERRCODE` go to 0, `ERRCP` stays. With it the host has handled the error (R252). -/
def State.clear (p : Port) (s : State) : State :=
  let ps := s.portState p
  (s.setPort p
    { ps with fifo := [], cp := ps.cp + BitVec.ofNat 32 ps.fifo.length, err := false, errCode := .none }).setErrorsSeen
    (s.errorsSeen.filter (fun q => decide (q ≠ p)))

/-- The host has seen that every command a port has completed is complete (R249). -/
def State.seen (p : Port) (s : State) : State := s.setUnseen (s.unseen.filter (fun e => decide (e.1 ≠ p)))

/-- The host has seen that a port has an error: from here until its clear it handles that error (R252). -/
def State.sawError (p : Port) (s : State) : State := s.setErrorsSeen (s.errorsSeen.insert p)

/-- Whether the host handles an error of a port: the port is halted and the host has seen it (R252). -/
def State.handlesError (p : Port) (s : State) : Bool := (s.portState p).err && s.errorsSeen.contains p

/-- Power-on reset (R240): every piece of state to its value of R49, any command in progress aborted. It writes no
`MEM` word, and it touches neither the configuration nor the model's own record of the host and of the free
values (log entry 22). No command and no error is pending after it, so the record of
what the host has seen of them is empty. -/
def State.powerOnReset (s : State) : State :=
  { State.resetWith s.nch s.cfg with
    mem := s.mem, host := s.host, returned := s.returned, draws := s.draws, ticks := s.ticks }

/-- The header checks of R112 that depend on the port and on `NCH`, in the order of R214: `PORT`, `BAD_CHANNEL`,
`BAD_SELECT`. -/
def headerFault (p : Port) (nch : Nat) (hd : Header) : Option ErrCode :=
  if p = .D ∧ hd.op.renderOnly then some .port
  else if hd.op ≠ .wrp ∧ nch ≤ hd.ch.toNat then some .badChannel
  else if hd.op = .wrp ∧ 2 < hd.sel.toNat then some .badSelect
  else none

/-- One whole command on the running port (R112): its header checks, its rule, and then its completion or its error. -/
def State.issue (hd : Header) (rule : State → Ended) (s : State) : State :=
  match headerFault s.cur s.nch hd with
  | some c => s.raise c
  | none =>
    match rule s with
    | .done t => t.complete hd.op.len
    | .failed c t => t.raise c

end Sys2Proof.Machine
end

