-- ==== Sys2Proof/Machine/Flags.lean ====
section
/-! DEFINITION. The block has no condition codes and no arithmetic flags (R14, R40). Its only flags are the per-port error and
idle bits, read in `STATUS_R` and `STATUS_D` (R44), and the valid bits of the parameter and coefficient registers (R35, R39),
which the state holds. -/

namespace Sys2Proof.Machine

/-- The 4-bit value of an error code (R211). -/
def ErrCode.bits : ErrCode → BitVec 4
  | .none => 0
  | .illegalOpcode => 1
  | .reservedField => 2
  | .port => 3
  | .badChannel => 4
  | .badSelect => 5
  | .addrRange => 6
  | .uninitParam => 7
  | .uninitCoef => 8
  | .domain => 9
  | .degenerate => 10

/-- The code of a header word that is no command (R109, R110). -/
def codeOfDecodeError : DecodeError → ErrCode
  | .illegalOpcode => .illegalOpcode
  | .reservedField => .reservedField

/-- `IDLE` (R44): no error, no command executing, and an empty FIFO. -/
def PortState.idle (ps : PortState) : Bool := !ps.err && ps.job.isNone && ps.fifo.isEmpty

/-- `STATUS_P` (R44): `ERR` at bit 0, `IDLE` at bit 1, `ERRCODE` at bits 7:4, every other bit 0. -/
def PortState.status (ps : PortState) : Word :=
  0#24 ++ ps.errCode.bits ++ 0#2 ++ BitVec.ofBool ps.idle ++ BitVec.ofBool ps.err

end Sys2Proof.Machine
end

