-- ==== Sys2Proof/Machine/Operands.lean ====
section
/-! DEFINITION. What commands do with their operands: range checks of buffers (R74), the parameter registers they read and
write (R39, R200), and the `MEM` words they use (R248). -/

namespace Sys2Proof.Machine

/-- Whether the `n` words at `a` lie in `MEM`, in mathematical integers (R16, R74). -/
def State.inRange (s : State) (a n : Nat) : Bool := decide (a + n ≤ s.cfg.memWords)

/-- The parameter register that a WRP selector names, written with its flag in one step (R107, R200). -/
def Params.write (sel : BitVec 8) (value : Word) (p : Params) : Params :=
  if sel = 0 then { p with cut := value, cutValid := true }
  else if sel = 1 then { p with res := value, resValid := true }
  else if sel = 2 then { p with rate := value, rateValid := true }
  else p

/-- Whether a word address lies among the `n` words at `a`. -/
def within (a n x : Nat) : Bool := decide (a ≤ x) && decide (x < a + n)

/-- The `MEM` words that a command reads or writes (R70, R248). -/
def Instr.uses (i : Instr) (x : Nat) : Bool :=
  match i with
  | .wrp _ _ => false
  | .process _ _ src dst n => within src.toNat n.toNat x || within dst.toNat n.toNat x
  | .reset _ => false
  | .calcCoef _ _ _ => false
  | .eval _ _ dst => within dst.toNat 1 x
  | .curve _ a n => within a.toNat (2 * n.toNat) x
  | .rdcoef _ dst => within dst.toNat 10 x

/-- The whole commands at the head of a FIFO, at most `k` of them. -/
def wholeCommands : Nat → List Word → List Instr
  | 0, _ => []
  | k + 1, ws =>
    match decode ws with
    | .ok i rest => i :: wholeCommands k rest
    | .empty | .bad _ | .short _ => []

/-- Whether a pushed, uncompleted command of a port uses a word: the words of the executing command, and of a command that
ended in an error, are still in the FIFO (R32, R212). What a host may do meanwhile is `State.inUse`. -/
def PortState.uses (ps : PortState) (x : Nat) : Bool :=
  (wholeCommands ps.fifo.length ps.fifo).any (fun i => Instr.uses i x)

end Sys2Proof.Machine
end

