-- ==== Sys2Proof/Machine/ChannelReset.lean ====
section
/-! DEFINITION. RESET, the channel reset (42_reset.md R170–R172). -/

namespace Sys2Proof.Machine

/-- A kernel reset (R170): zero filter state and the sentinel in both cache registers; the coefficients and
`COEF_VALID` stay (R172). -/
def Kernel.cleared (k : Kernel) : Kernel :=
  { k with x1 := 0, x2 := 0, y1 := 0, y2 := 0, lastF := sentinel, lastR := sentinel }

/-- The rule of RESET (R170). -/
def resetRule (ch : BitVec 8) (s : State) : Ended := .done (s.setKernel ch (Kernel.cleared (s.kernel ch)))

/-- RESET (R170). -/
def execReset (ch : BitVec 8) (s : State) : Host.Outcome State Fault Refusal :=
  .next (s.issue (Instr.reset ch).header (resetRule ch))

end Sys2Proof.Machine
end

