-- ==== Sys2Proof/Machine/Parameters.lean ====
section
/-! DEFINITION. WRP, the parameter writes (44_parameters.md R200–R202). -/

namespace Sys2Proof.Machine

/-- The rule of WRP (R200): one parameter register and its flag, the value stored bit for bit and never checked (R201). -/
def wrpRule (sel : BitVec 8) (value : Word) (s : State) : Ended := .done (s.setParams (s.params.write sel value))

/-- WRP (R200). -/
def execWrp (sel : BitVec 8) (value : Word) (s : State) : Host.Outcome State Fault Refusal :=
  .next (s.issue (Instr.wrp sel value).header (wrpRule sel value))

end Sys2Proof.Machine
end

