-- ==== Sys2Proof/Machine/Coefficients.lean ====
section
/-! DEFINITION. The coefficient calculator (40_coefficients.md R130–R136): the function COEF, the coefficient write,
CALC and RDCOEF. -/

namespace Sys2Proof.Machine

/-- The exponent `-res / 20` in the form `EXP_FORM` gives it (R13). -/
def exponent (form : ExpForm) (res : Dword) : Dword :=
  match form with
  | .div20 => div64 (neg64 res) twenty
  | .mul005 => mul64 c005 (neg64 res)

/-- `k` of COEF (R130), from `r` and `s` = sine. -/
def coefK (r s : Dword) : Dword := mul64 (mul64 half r) s

/-- `c1` of COEF (R130). -/
def coefC1 (r s : Dword) : Dword := div64 (mul64 half (sub64 one (coefK r s))) (add64 one (coefK r s))

/-- `c2` of COEF (R130), with `c` = cosine. -/
def coefC2 (r s c : Dword) : Dword := mul64 (add64 half (coefC1 r s)) c

/-- `c3` of COEF (R130). -/
def coefC3 (r s c : Dword) : Dword := mul64 (sub64 (add64 half (coefC1 r s)) (coefC2 r s c)) quarter

/-- The part of COEF after the transcendental functions (R130): from `r`, `s` = sine and `c` = cosine, in the
parenthesisation of the rule. -/
def coefWith (r s c : Dword) : Coefs :=
  { a0 := mul64 two (coefC3 r s c)
    a1 := mul64 four (coefC3 r s c)
    a2 := mul64 two (coefC3 r s c)
    b1 := mul64 minusTwo (coefC2 r s c)
    b2 := mul64 two (coefC1 r s) }

/-- `COEF(f, res)` (R130). -/
def coefFn (form : ExpForm) (f res : Dword) : Coefs :=
  coefWith (pow10 (exponent form res)) (sin64 (mul64 pi64 f)) (cos64 (mul64 pi64 f))

/-- The five register writes of a coefficient set (R131); which comes first shows only to port D (R82). -/
def State.writeCoefRegs (ch : BitVec 8) (c : Coefs) (s : State) : State :=
  ((((s.writeCoefReg ch .a0 c.a0).writeCoefReg ch .a1 c.a1).writeCoefReg ch .a2 c.a2).writeCoefReg ch .b1 c.b1).writeCoefReg
    ch .b2 c.b2

/-- `WriteCoef(ch, c)` as a whole (R131), its NaNs drawn (R9). -/
def State.writeCoef (ch : BitVec 8) (c : Coefs) (s : State) : State :=
  let (d, t) := s.freshCoefs c
  (t.writeCoefRegs ch d).validateCoef ch

/-- CALC's domain (R132): 0 < f ≤ 1 and a finite resonance. -/
def calcDomain (f res : Dword) : Bool := lt64 0 f && le64 f one && isFinite64 res

/-- The rule of CALC (R132). -/
def calcRule (ch : BitVec 8) (f res : Dword) (s : State) : Ended :=
  if calcDomain f res then .done (s.writeCoef ch (coefFn s.cfg.expForm f res)) else .failed .domain s

/-- CALC (R132). -/
def execCalc (ch : BitVec 8) (f res : Dword) (s : State) : Host.Outcome State Fault Refusal :=
  .next (s.issue (Instr.calcCoef ch f res).header (calcRule ch f res))

/-- The ten words of a coefficient set, each low word first, in the order A0 A1 A2 B1 B2 (R136, R73). -/
def coefWords (c : Coefs) : List Word :=
  [lowWord c.a0, highWord c.a0, lowWord c.a1, highWord c.a1, lowWord c.a2, highWord c.a2,
   lowWord c.b1, highWord c.b1, lowWord c.b2, highWord c.b2]

/-- The rule of RDCOEF (R136). -/
def rdcoefRule (ch : BitVec 8) (dst : Nat) (s : State) : Ended :=
  if !s.inRange dst 10 then .failed .addrRange s
  else if !(s.kernel ch).valid then .failed .uninitCoef s
  else .done (s.memWrites dst (coefWords (s.kernel ch).coef))

/-- RDCOEF (R136). -/
def execRdcoef (ch : BitVec 8) (dst : Word) (s : State) : Host.Outcome State Fault Refusal :=
  .next (s.issue (Instr.rdcoef ch dst).header (rdcoefRule ch dst.toNat))

end Sys2Proof.Machine
end

