-- ==== Sys2Proof/Machine/Process.lean ====
section
/-! DEFINITION. The sample processor (41_process.md R150–R159): the preamble, the recompute decision, the per-sample
recurrence, and PROCESS. -/

namespace Sys2Proof.Machine

/-- `cutoffHz` clamped to at least 12 Hz (R152). -/
def clampCut (cut : Dword) : Dword := if lt64 cut twelve then twelve else cut

/-- `resonanceDb` clamped to [−20, 20] (R152): the second comparison is on the result of the first. -/
def clampRes (res : Dword) : Dword :=
  let r := if lt64 res minusTwenty then minusTwenty else res
  if lt64 twenty r then twenty else r

/-- `f = 2*cutoffHz/sampleRate`, clipped to at most 0.99 (R152). -/
def normalizedFreq (cut sr : Dword) : Dword :=
  let f := div64 (mul64 two cut) sr
  if lt64 c099 f then c099 else f

/-- `Preamble()` on one snapshot of the parameter registers (R152, R153, R83): `(f, res)`, or the error. -/
def preamble (p : Params) : Except ErrCode (Dword × Dword) :=
  if !p.cutValid || !p.resValid || !p.rateValid then .error .uninitParam
  else
    let cut := to64 p.cut
    let res := to64 p.res
    let sr := to64 p.rate
    if isNaN64 cut || isNaN64 res || !isFinite64 sr || !lt64 0 sr then .error .domain
    else .ok (normalizedFreq (clampCut cut) sr, clampRes res)

/-- Whether `(f, res)` differs from the channel's cache, by IEEE comparison (R154). -/
def cacheDiffers (k : Kernel) (f res : Dword) : Bool := !eq64 f k.lastF || !eq64 res k.lastR

/-- The cache written (R154). -/
def State.writeCache (ch : BitVec 8) (f res : Dword) (s : State) : State :=
  s.setKernel ch { s.kernel ch with lastF := f, lastR := res }

/-- `Recompute(ch, f, res)` (R154). -/
def State.recompute (ch : BitVec 8) (f res : Dword) (s : State) : State :=
  if cacheDiffers (s.kernel ch) f res then (s.writeCoef ch (coefFn s.cfg.expForm f res)).writeCache ch f res else s

/-- The recurrence of R155 in binary64, left to right, on the input `x` and a channel's registers. -/
def recurrence (k : Kernel) (x : Dword) : Dword :=
  sub64
    (sub64 (add64 (add64 (mul64 k.coef.a0 x) (mul64 k.coef.a1 k.x1)) (mul64 k.coef.a2 k.x2)) (mul64 k.coef.b1 k.y1))
    (mul64 k.coef.b2 k.y2)

/-- The first half of `Sample` (R155): read the input word, compute, round once to binary32, shift the filter state. It answers
the output word. The NaNs written to `X1`, to the output and to `Y1` are each a draw of its own (R9). -/
def State.sampleIn (ch : BitVec 8) (a : Nat) (s : State) : Word × State :=
  let (w, s1) := s.memRead a
  let (x, s2) := s1.fresh64 (to64 w)
  let k := s.kernel ch
  let (out, s3) := s2.fresh32 (round32 (recurrence k x))
  let (y, s4) := s3.fresh64 (to64 out)
  (out, s4.setKernel ch { k with x2 := k.x1, x1 := x, y2 := k.y1, y1 := y })

/-- `Sample(ch, src, dst)` (R155): the read half, then the `MemWrite`. -/
def State.sample (ch : BitVec 8) (src dst : Nat) (s : State) : State :=
  let (out, t) := s.sampleIn ch src
  t.memWrite dst out

/-- The sample loop (R156): each iteration is whole before the next reads. -/
def State.samples (ch : BitVec 8) : Nat → Nat → Nat → State → State
  | _, _, 0, s => s
  | src, dst, n + 1, s => State.samples ch (src + 1) (dst + 1) n (s.sample ch src dst)

/-- The rule of PROCESS (R150, R151). -/
def processRule (ch : BitVec 8) (src dst n : Nat) (s : State) : Ended :=
  if n = 0 then .done s
  else if !(s.inRange src n && s.inRange dst n) then .failed .addrRange s
  else
    match preamble s.params with
    | .error c => .failed c s
    | .ok (f, res) => .done (State.samples ch src dst n (s.recompute ch f res))

/-- PROCESS (R150). The silence hint has no effect (R157). -/
def execProcess (ch : BitVec 8) (sil : Bool) (src dst n : Word) (s : State) : Host.Outcome State Fault Refusal :=
  .next (s.issue (Instr.process ch sil src dst n).header (processRule ch src.toNat dst.toNat n.toNat))

end Sys2Proof.Machine
end

