-- ==== Sys2Proof/Machine/Response.lean ====
section
/-! DEFINITION. The response evaluator (43_response.md R180–R187): the function MAG, EVAL and CURVE. -/

namespace Sys2Proof.Machine

/-- The modulus of a complex value (R180). -/
def modulus (re im : Dword) : Dword := sqrt64 (add64 (mul64 re re) (mul64 im im))

/-- |num| at `z = zr + i·zi` (R180). -/
def numeratorMag (c : Coefs) (zr zi : Dword) : Dword :=
  let q := sub64 (mul64 zr zr) (mul64 zi zi)
  modulus (add64 (add64 (mul64 c.a0 q) (mul64 c.a1 zr)) c.a2)
    (add64 (mul64 (mul64 (mul64 two c.a0) zr) zi) (mul64 c.a1 zi))

/-- |den| at `z = zr + i·zi` (R180). -/
def denominatorMag (c : Coefs) (zr zi : Dword) : Dword :=
  let q := sub64 (mul64 zr zr) (mul64 zi zi)
  modulus (add64 (add64 q (mul64 c.b1 zr)) c.b2) (add64 (mul64 (mul64 two zr) zi) (mul64 c.b1 zi))

/-- The part of MAG after the transcendental functions (R180); none stands for `DEGENERATE` (R183). -/
def magWith (c : Coefs) (zr zi : Dword) : Option Word :=
  let dm := denominatorMag c zr zi
  if eq64 dm 0 then none else some (round32 (div64 (numeratorMag c zr zi) dm))

/-- The angle `w` of a frequency at a sample rate (R180). -/
def angle (fq sr : Dword) : Dword := mul64 pi64 (div64 (mul64 two fq) sr)

/-- `MAG` on a set of coefficients read (R180). -/
def magnitude (c : Coefs) (fq sr : Dword) : Option Word := magWith c (cos64 (angle fq sr)) (sin64 (angle fq sr))

/-- The domain of EVAL and of a CURVE entry (R181, R182): a finite positive sample rate and a finite frequency. -/
def responseDomain (rate freq : Word) : Bool := isFinite64 (to64 rate) && lt64 0 (to64 rate) && isFinite64 (to64 freq)

/-- A magnitude written to `MEM` (R181, R182), a NaN drawn (R9); `DEGENERATE` where there is none. -/
def writeMagnitude (c : Coefs) (rate freq : Word) (dst : Nat) (s : State) : Ended :=
  match magnitude c (to64 freq) (to64 rate) with
  | none => .failed .degenerate s
  | some m =>
    let (w, t) := s.fresh32 m
    .done (t.memWrite dst w)

/-- The rule of EVAL (R181). -/
def evalRule (ch : BitVec 8) (freq : Word) (dst : Nat) (s : State) : Ended :=
  if !s.inRange dst 1 then .failed .addrRange s
  else if !s.params.rateValid then .failed .uninitParam s
  else if !(s.kernel ch).valid then .failed .uninitCoef s
  else if !responseDomain s.params.rate freq then .failed .domain s
  else writeMagnitude (s.kernel ch).coef s.params.rate freq dst s

/-- EVAL (R181). -/
def execEval (ch : BitVec 8) (freq dst : Word) (s : State) : Host.Outcome State Fault Refusal :=
  .next (s.issue (Instr.eval ch freq dst).header (evalRule ch freq dst.toNat))

/-- One entry of a CURVE at `a` (R182): the frequency word, then the sample rate (R185), then MAG. -/
def curveEntry (ch : BitVec 8) (a : Nat) (s : State) : Ended :=
  let (freq, t) := s.memRead a
  if !responseDomain t.params.rate freq then .failed .domain t
  else writeMagnitude (t.kernel ch).coef t.params.rate freq (a + 1) t

/-- The entries of a CURVE in order (R182): the ones before a failing entry stay written (R213). -/
def curveEntries (ch : BitVec 8) : Nat → Nat → State → Ended
  | _, 0, s => .done s
  | a, n + 1, s =>
    match curveEntry ch a s with
    | .done t => curveEntries ch (a + 2) n t
    | .failed c t => .failed c t

/-- The rule of CURVE (R182). -/
def curveRule (ch : BitVec 8) (a n : Nat) (s : State) : Ended :=
  if n = 0 then .done s
  else if !s.inRange a (2 * n) then .failed .addrRange s
  else if !s.params.rateValid then .failed .uninitParam s
  else if !(s.kernel ch).valid then .failed .uninitCoef s
  else curveEntries ch a n s

/-- CURVE (R182). -/
def execCurve (ch : BitVec 8) (a n : Word) (s : State) : Host.Outcome State Fault Refusal :=
  .next (s.issue (Instr.curve ch a n).header (curveRule ch a.toNat n.toNat))

end Sys2Proof.Machine
end

