-- ==== Sys2Proof/Machine/Atomic.lean ====
section
/-! DEFINITION. The same commands one atomic step at a time (20_memory.md R81–R83, R184, R185), for a port whose command other
agents can see in progress. Each step makes at most one access to a shared location; arithmetic and channel-private updates are
part of a neighbouring step, as R81 allows. The meanings are the shared operations of the whole commands. -/

namespace Sys2Proof.Machine

/-- What the running port does next. -/
def State.setJob (j : Job) (s : State) : State := s.setPort s.cur { s.portState s.cur with job := some j }

/-- The five coefficient registers to write, with their new values (R82, R131). -/
def coefTodo (c : Coefs) : List (CoefReg × Dword) := [(.a0, c.a0), (.a1, c.a1), (.a2, c.a2), (.b1, c.b1), (.b2, c.b2)]

/-- The five coefficient registers to read (R136, R184). -/
def allCoefRegs : List CoefReg := [.a0, .a1, .a2, .b1, .b2]

/-- The set that collects coefficients read; every element is replaced before it is used. -/
def noCoefs : Coefs := ⟨0, 0, 0, 0, 0⟩

/-- A coefficient write begins: the values are computed and drawn, and no register is written yet (R131). -/
def State.beginCoefWrite (ch : BitVec 8) (f res : Dword) (next : AfterCoef) (s : State) : State :=
  let (c, t) := s.freshCoefs (coefFn s.cfg.expForm f res)
  t.setJob (.coefWrite ch (coefTodo c) next)

/-- The first step of PROCESS: its checks, the parameter snapshot (R83), and the recompute decision (R150–R154). -/
def startProcess (ch : BitVec 8) (src dst n : Nat) (s : State) : State :=
  if n = 0 then s.complete 4
  else if !(s.inRange src n && s.inRange dst n) then s.raise .addrRange
  else
    match preamble s.params with
    | .error c => s.raise c
    | .ok (f, res) =>
      if cacheDiffers (s.kernel ch) f res then s.beginCoefWrite ch f res (.filter f res src dst n)
      else s.setJob (.sampleIn ch src dst n)

/-- The first step of CALC: its check and its computation (R132). -/
def startCalc (ch : BitVec 8) (f res : Dword) (s : State) : State :=
  if calcDomain f res then s.beginCoefWrite ch f res .finish else s.raise .domain

/-- The first step of EVAL: its range check and its read of `P_RATE` with the flag (R181, R185). -/
def startEval (ch : BitVec 8) (freq : Word) (dst : Nat) (s : State) : State :=
  if !s.inRange dst 1 then s.raise .addrRange
  else if !s.params.rateValid then s.raise .uninitParam
  else s.setJob (.evalValid ch dst s.params.rate freq)

/-- The first step of CURVE: its range check and its read of `P_VALID[2]` (R182). -/
def startCurve (ch : BitVec 8) (a n : Nat) (s : State) : State :=
  if n = 0 then s.complete 3
  else if !s.inRange a (2 * n) then s.raise .addrRange
  else if !s.params.rateValid then s.raise .uninitParam
  else s.setJob (.curveValid ch a n)

/-- The first step of RDCOEF: its range check and its read of `COEF_VALID` (R136). -/
def startRdcoef (ch : BitVec 8) (dst : Nat) (s : State) : State :=
  if !s.inRange dst 10 then s.raise .addrRange
  else if !(s.kernel ch).valid then s.raise .uninitCoef
  else s.setJob (.rdRead ch allCoefRegs noCoefs dst)

/-- The first atomic step of a command on the running port (R112): its header checks, then its own. WRP and RESET are one
step as a whole (R81 (b); RESET touches channel-private state only). -/
def startCommand (i : Instr) (s : State) : State :=
  match headerFault s.cur s.nch i.header with
  | some c => s.raise c
  | none =>
    match i with
    | .wrp sel value => (s.setParams (s.params.write sel value)).complete 2
    | .process ch _ src dst n => startProcess ch src.toNat dst.toNat n.toNat s
    | .reset ch => (s.setKernel ch (Kernel.cleared (s.kernel ch))).complete 1
    | .calcCoef ch f res => startCalc ch f res s
    | .eval ch freq dst => startEval ch freq dst.toNat s
    | .curve ch a n => startCurve ch a.toNat n.toNat s
    | .rdcoef ch dst => startRdcoef ch dst.toNat s

/-- A step of a coefficient write: one register, freely chosen among those left (R82 (e)). -/
def stepCoefWrite (ch : BitVec 8) (todo : List (CoefReg × Dword)) (next : AfterCoef) (s : State) : State :=
  let (j, t) := s.choose todo.length
  match todo[j]? with
  | none => t
  | some (r, v) => (t.writeCoefReg ch r v).setJob (.coefWrite ch (todo.eraseIdx j) next)

/-- The sixth step of a coefficient write (R131), and where the command goes from there (R132, R154). -/
def stepCoefValid (ch : BitVec 8) (next : AfterCoef) (s : State) : State :=
  match next with
  | .finish => (s.validateCoef ch).complete 5
  | .filter f res src dst n => ((s.validateCoef ch).writeCache ch f res).setJob (.sampleIn ch src dst n)

/-- A step of `MAG`'s or RDCOEF's coefficient reads: one register, freely chosen among those left (R184, R81 (g)). It answers
the registers left and the set read so far. -/
def stepCoefRead (ch : BitVec 8) (todo : List CoefReg) (got : Coefs) (s : State) : List CoefReg × Coefs × State :=
  let (j, t) := s.choose todo.length
  match todo[j]? with
  | none => (todo, got, t)
  | some r => (todo.eraseIdx j, got.set r ((s.kernel ch).coef.get r), t)

/-- The magnitude of the coefficients read, written (R180–R183); then EVAL is complete, and CURVE goes on to its
next entry. -/
def stepMagnitude (ch : BitVec 8) (got : Coefs) (rate freq : Word) (next : AfterMag) (s : State) : State :=
  match next with
  | .finish dst =>
    match writeMagnitude got rate freq dst s with
    | .failed c t => t.raise c
    | .done t => t.complete 3
  | .entry a left =>
    match writeMagnitude got rate freq (a + 1) s with
    | .failed c t => t.raise c
    | .done t => if left ≤ 1 then t.complete 3 else t.setJob (.curveIn ch (a + 2) (left - 1))

/-- One atomic step of the command in progress on the running port. -/
def stepJob (j : Job) (s : State) : State :=
  match j with
  | .coefWrite ch [] next => stepCoefValid ch next s
  | .coefWrite ch (p :: todo) next => stepCoefWrite ch (p :: todo) next s
  | .sampleIn ch src dst left =>
    let (out, t) := s.sampleIn ch src
    t.setJob (.sampleOut ch src dst left out)
  | .sampleOut ch src dst left out =>
    let t := s.memWrite dst out
    if left ≤ 1 then t.complete 4 else t.setJob (.sampleIn ch (src + 1) (dst + 1) (left - 1))
  | .evalValid ch dst rate freq =>
    if !(s.kernel ch).valid then s.raise .uninitCoef
    else if !responseDomain rate freq then s.raise .domain
    else s.setJob (.magRead ch allCoefRegs noCoefs rate freq (.finish dst))
  | .curveValid ch a left =>
    if !(s.kernel ch).valid then s.raise .uninitCoef else s.setJob (.curveIn ch a left)
  | .curveIn ch a left =>
    let (freq, t) := s.memRead a
    t.setJob (.curveRate ch a left freq)
  | .curveRate ch a left freq =>
    if !responseDomain s.params.rate freq then s.raise .domain
    else s.setJob (.magRead ch allCoefRegs noCoefs s.params.rate freq (.entry a left))
  | .magRead ch [] got rate freq next => stepMagnitude ch got rate freq next s
  | .magRead ch (r :: todo) got rate freq next =>
    let (left, got', t) := stepCoefRead ch (r :: todo) got s
    t.setJob (.magRead ch left got' rate freq next)
  | .rdRead _ [] got dst => s.setJob (.rdWrite dst (coefWords got))
  | .rdRead ch (r :: todo) got dst =>
    let (left, got', t) := stepCoefRead ch (r :: todo) got s
    t.setJob (.rdRead ch left got' dst)
  | .rdWrite _ [] => s.complete 2
  | .rdWrite dst (w :: ws) =>
    let t := s.memWrite dst w
    if ws.isEmpty then t.complete 2 else t.setJob (.rdWrite (dst + 1) ws)

end Sys2Proof.Machine
end

