-- ==== Sys2Proof/Machine/Dispatch.lean ====
section
/-! DEFINITION. One arm per command: the whole command, run on port `cur` (R112). -/

namespace Sys2Proof.Machine

def exec (i : Instr) (s : State) : Host.Outcome State Fault Refusal :=
  match i with
  | .wrp sel value => Sys2Proof.Machine.execWrp sel value s
  | .process ch sil src dst n => Sys2Proof.Machine.execProcess ch sil src dst n s
  | .reset ch => Sys2Proof.Machine.execReset ch s
  | .calcCoef ch f res => Sys2Proof.Machine.execCalc ch f res s
  | .eval ch freq dst => Sys2Proof.Machine.execEval ch freq dst s
  | .curve ch a n => Sys2Proof.Machine.execCurve ch a n s
  | .rdcoef ch dst => Sys2Proof.Machine.execRdcoef ch dst s

end Sys2Proof.Machine
end

