-- ==== Sys2Proof/Machine/HostPort.lean ====
section
/-! DEFINITION. The host's side of the block: the register map (10_state.md R42–R48), the accesses to `MEM` (20_memory.md R70–R76, R88,
R248) and power-on reset (R240), each as one atomic step (R81 (h)). -/

namespace Sys2Proof.Machine

/-- What a read of the register at a byte offset returns (R42): no side effects (R48). -/
def State.hostRegister (off : Nat) (s : State) : Word :=
  match off with
  | 0x08 => s.portR.status
  | 0x0C => s.portD.status
  | 0x10 => s.portR.errCp
  | 0x14 => s.portD.errCp
  | 0x18 => s.portR.cp
  | 0x1C => s.portD.cp
  | 0x20 => s.ncoef
  | 0x24 => BitVec.ofNat 32 (s.nch % 2 ^ 9)
  | 0x28 => BitVec.ofNat 32 (s.cfg.memWords - 1)
  | _ => 0

/-- A push of a command word (R43): appended while `ERR` is 0, discarded while it is 1. A push to a full FIFO is stalled
before this point (`State.hostStalled`). -/
def State.push (p : Port) (w : Word) (s : State) : State :=
  let ps := s.portState p
  if ps.err then s else s.setPort p { ps with fifo := ps.fifo ++ [w] }

/-- A write to `STATUS_P` (R44): bit 0 = 1 clears an error that is there; nothing else has an effect. -/
def State.writeStatus (p : Port) (w : Word) (s : State) : State :=
  if w.getLsbD 0 && (s.portState p).err then s.clear p else s

/-- What a write to the register at a byte offset does (R42–R46): the `CMD` pushes and the `STATUS` clears; every other
write is ignored. -/
def State.writeHostRegister (off : Nat) (w : Word) (s : State) : State :=
  match off with
  | 0x00 => s.push .R w
  | 0x04 => s.push .D w
  | 0x08 => s.writeStatus .R w
  | 0x0C => s.writeStatus .D w
  | _ => s

/-- The register accesses that have a meaning (R48): 32 bits at a 4-aligned offset of 0x00 … 0xFC. -/
def registerAccess (off size : Nat) : Bool := decide (size = 4) && decide (off % 4 = 0) && decide (off ≤ 0xFC)

/-- The accesses to `MEM` that have a meaning (R75): one whole aligned word. -/
def memoryAccess (off size : Nat) : Bool := decide (size = 4) && decide (off % 4 = 0)

/-- Whether a word is used by a command of a port that is pushed and not completed, or completed and not seen to be (R248). -/
def State.portUses (p : Port) (x : Nat) (s : State) : Bool :=
  (s.portState p).uses x || s.unseen.any (fun e => decide (e.1 = p) && Instr.uses e.2 x)

/-- Whether a command has the use of a word, so that a host write to it would be a race (R248). The commands of a halted port have
none while the host handles its error: it may touch anything meanwhile (R252). -/
def State.inUse (x : Nat) (s : State) : Bool :=
  (!s.handlesError .R && s.portUses .R x) || (!s.handlesError .D && s.portUses .D x)

/-- Whether the host's write to `CMD_P` must wait for room (R43). -/
def State.fifoFull (p : Port) (s : State) : Bool :=
  !(s.portState p).err && decide (s.cfg.fifoDepth ≤ (s.portState p).fifo.length)

/-- Whether the host's next move is a push that must wait (R43). -/
def State.hostStalled (m : HostMove) (s : State) : Bool :=
  match m with
  | .regWrite off size _ =>
    registerAccess off size && ((decide (off = 0x00) && s.fifoFull .R) || (decide (off = 0x04) && s.fifoFull .D))
  | .regRead _ _ => false
  | .memWrite _ _ _ => false
  | .memRead _ _ => false
  | .powerOn => false

/-- A word returned to the host. -/
def State.answer (w : Word) (s : State) : State := s.setReturned (w :: s.returned)

/-- What the host learns from a read of `STATUS_P`: with `IDLE` = 1, which has `ERR` = 0, that every command the port has completed is
complete (R249); with `ERR` = 1, that the port has an error (R252). -/
def State.seesStatus (p : Port) (s : State) : State :=
  if (s.portState p).idle then s.seen p else if (s.portState p).err then s.sawError p else s

/-- What the host learns from a read of the register at a byte offset: `CP_P` shows that every command the port has completed is
complete (R249), `STATUS_P` shows its state. It changes the model's record of that only. -/
def State.hostSees (off : Nat) (s : State) : State :=
  match off with
  | 0x08 => s.seesStatus .R
  | 0x0C => s.seesStatus .D
  | 0x18 => s.seen .R
  | 0x1C => s.seen .D
  | _ => s

/-- One host move as one atomic step (R81 (h), R88, R240, R252). -/
def hostMove (m : HostMove) (s : State) : Host.Outcome State Fault Refusal :=
  match m with
  | .regWrite off size w => if registerAccess off size then .next (s.writeHostRegister off w) else .refused .hostRegisterAccess
  | .regRead off size =>
    if registerAccess off size then .next ((s.answer (s.hostRegister off)).hostSees off) else .refused .hostRegisterAccess
  | .memWrite off size w =>
    if !memoryAccess off size then .refused .hostMemAccess
    else if s.cfg.memWords ≤ off / 4 then .fault .hostMemRange
    else if s.inUse (off / 4) then .refused .hostRace
    else .next (s.memWrite (off / 4) w)
  | .memRead off size =>
    if !memoryAccess off size then .refused .hostMemAccess
    else if s.cfg.memWords ≤ off / 4 then .fault .hostMemRange
    else
      let (w, t) := s.memRead (off / 4)
      .next (t.answer w)
  | .powerOn => .next s.powerOnReset

/-- The host's next move made and taken off its list; without one, nothing. -/
def hostStep (s : State) : Host.Outcome State Fault Refusal :=
  match s.host with
  | [] => .next s
  | m :: ms => hostMove m (s.setHost ms)

end Sys2Proof.Machine
end

