-- ==== Sys2Proof/Machine/Run.lean ====
section
/-! DEFINITION. Which agent can move and what its move is (30_encoding.md R112, R113; 20_memory.md R79–R81). `Step.lean` only calls what
is defined here. -/

namespace Sys2Proof.Machine

/-- What a port without a command in progress finds at the head of its FIFO. The header checks do not wait for operand words
(R112, R113, R214). -/
def State.fetch (p : Port) (s : State) : Fetch :=
  match decode (s.portState p).fifo with
  | .empty => .nothing
  | .bad e => .error (codeOfDecodeError e)
  | .ok i _ => .command i
  | .short hd =>
    match headerFault p s.nch hd with
    | some c => .error c
    | none => .wait

/-- Whether a port can move: it is not halted (R215), and it has a command in progress or something to decode (R112, R113). -/
def State.portReady (p : Port) (s : State) : Bool :=
  !(s.portState p).err &&
    match (s.portState p).job with
    | some _ => true
    | none =>
      match s.fetch p with
      | .nothing => false
      | .wait => false
      | .error _ => true
      | .command _ => true

/-- Whether the host can move: it has a move left, and not a stalled push (R43). -/
def State.hostReady (s : State) : Bool :=
  match s.host with
  | [] => false
  | m :: _ => !s.hostStalled m

/-- The agents that can move (R79). -/
def State.ready (s : State) : List Agent :=
  (if s.portReady .R then [.port .R] else []) ++ (if s.portReady .D then [.port .D] else []) ++
    (if s.hostReady then [.host] else [])

/-- A port's move. `run` says how a whole command at the head of its FIFO is taken up. -/
def State.portStep (p : Port) (run : Instr → State → Host.Outcome State Fault Refusal) (s : State) :
    Host.Outcome State Fault Refusal :=
  match (s.portState p).job with
  | some j => .next (stepJob j (s.setCur p))
  | none =>
    match s.fetch p with
    | .nothing => .next s
    | .wait => .next s
    | .error c => .next ((s.setCur p).raise c)
    | .command i => run i (s.setCur p)

/-- The move of the only agent that can move: a port runs its next command as a whole, since no agent can act or look
before it ends (log entry 10). -/
def State.aloneStep (a : Agent) (s : State) : Host.Outcome State Fault Refusal :=
  match a with
  | .port p => s.portStep p exec
  | .host => hostStep s

/-- The move of one agent among several: one atomic step (R80, R81). -/
def State.sharedStep (a : Agent) (s : State) : Host.Outcome State Fault Refusal :=
  match a with
  | .port p => s.portStep p (fun i t => .next (startCommand i t))
  | .host => hostStep s

/-- A free choice of the agent that moves next (R80: any interleaving). -/
def State.chooseAgent (as : List Agent) (s : State) : Agent × State :=
  let (j, t) := s.choose as.length
  ((as[j]?).getD .host, t)

/-- The machine when no agent can move: halted by an error (R210, R215), stuck for operand words (R113), or idle, where time passes
and all state survives (R225, R251). -/
def State.quiescent (s : State) : Host.Outcome State Fault Refusal :=
  if s.portR.err || s.portD.err then .fault .portHalted
  else if s.fetch .R = .wait ∨ s.fetch .D = .wait then .fault .operandsMissing
  else .next s

/-- The state with words as all that waits in the FIFO of port R, and nothing else that could move: port D has no words and
the host has no moves (log entry 26). -/
def State.loadAlone (ws : List Word) (s : State) : State :=
  { s with
    portR := { s.portR with fifo := ws, err := false, errCode := .none, job := none }
    portD := { s.portD with fifo := [], job := none }
    cur := .R
    host := [] }

end Sys2Proof.Machine
end

