-- ==== Sys2Proof/Machine/Step.lean ====
section
/-! DEFINITION. One step of the machine. -/

namespace Sys2Proof.Machine

/-- One step (R79–R81): the agent that can move makes its move; among several a free value picks one, and it makes one
atomic step. -/
def step (s : State) : Host.Outcome State Fault Refusal :=
  match s.ready with
  | [] => s.quiescent
  | [a] => s.aloneStep a
  | a :: b :: as =>
    match s.chooseAgent (a :: b :: as) with
    | (c, t) => t.sharedStep c

/-- The state in which the next step runs the command of a row of spec/opcode_table.json: its words waiting in the FIFO of
port R, and no other agent able to move (log entry 26). -/
def State.withFetchWord (s : State) (nbits w : Nat) : State := s.loadAlone (tableCommandWords nbits w)

end Sys2Proof.Machine
end

