-- ==== Sys2Proof/Safety.lean ====
section
/-! DEFINITION. The terms that claims use: what a run's end is (R251), what a command leaves alone (its frame), and the invariants of
the machine. -/

namespace Sys2Proof.Machine

/-! ## The end of a run (R251) and the states that are never final (R210, R113) -/

/-- A host move that pushes a command word (R43). -/
def HostMove.isPush : HostMove → Bool
  | .regWrite off size _ => decide (size = 4) && (decide (off = 0x00) || decide (off = 0x04))
  | .regRead _ _ => false
  | .memWrite _ _ _ => false
  | .memRead _ _ => false
  | .powerOn => false

/-- The end of a run: the host has pushed every word (no push is pending; other moves may be), and both ports are idle: empty
FIFO, no command executing, no error. -/
def State.isFinal (s : State) : Bool := s.host.all (fun m => !m.isPush) && s.portR.idle && s.portD.idle

/-- A faulted state (R210): a port with `ERR` = 1. -/
def State.isFaulted (s : State) : Bool := s.portR.err || s.portD.err

/-! ## Frames -/

/-- The command of `s.cur` completed with `len` words (R31, R112, R114): they left the FIFO, `CP` advanced, no error was
recorded; and the command at the head of the FIFO is one whose completion the host has yet to see (R249). -/
def completed (len : Nat) (s t : State) : Prop :=
  t.portState s.cur =
    { s.portState s.cur with
      fifo := (s.portState s.cur).fifo.drop len
      cp := (s.portState s.cur).cp + BitVec.ofNat 32 len
      job := none } ∧
  t.unseen = s.unseen ++ (headCommand (s.portState s.cur).fifo).toList.map (s.cur, ·)

/-- The command of `s.cur` ended with the error `c` (R212): `ERR`, `ERRCODE` and `ERRCP` are set, `CP` and the FIFO stay. -/
def failedWith (c : ErrCode) (s t : State) : Prop :=
  t.portState s.cur =
    { s.portState s.cur with err := true, errCode := c, errCp := (s.portState s.cur).cp, job := none } ∧
  t.unseen = s.unseen

/-- What no command touches: the other port, the configuration, the host's moves, the words returned to it and the errors it has
seen. -/
def keepsOthers (s t : State) : Prop :=
  t.cfg = s.cfg ∧ t.cur = s.cur ∧ t.host = s.host ∧ t.returned = s.returned ∧ t.errorsSeen = s.errorsSeen ∧
    t.ticks = s.ticks ∧ ∀ q, q ≠ s.cur → t.portState q = s.portState q

/-- Every kernel but that of `ch` is unchanged (R33). -/
def kernelsExcept (ch : BitVec 8) (s t : State) : Prop :=
  t.nch = s.nch ∧ ∀ j, j ≠ ch.toNat → t.kernels[j]? = s.kernels[j]?

/-- Every byte of `MEM` outside the `n` words at `a` is unchanged. -/
def memoryExcept (a n : Nat) (s t : State) : Prop :=
  ∀ y, ¬(4 * a ≤ y ∧ y < 4 * (a + n)) → memByte? t.mem y = memByte? s.mem y

/-- A binary64 quiet NaN: the top fraction bit is 1 (R9). -/
def isQuietNaN64 (v : Dword) : Bool := isNaN64 v && v.getLsbD 51

/-- A binary32 quiet NaN (R9). -/
def isQuietNaN32 (w : Word) : Bool := isNaN32 w && w.getLsbD 22

/-- A binary64 result as it is written: a number as it is, a NaN as some quiet NaN (R9). -/
def writtenAs64 (v d : Dword) : Prop := (isNaN64 v = false → d = v) ∧ (isNaN64 v = true → isQuietNaN64 d = true)

/-- A binary32 result as it is written (R9). -/
def writtenAs32 (v d : Word) : Prop := (isNaN32 v = false → d = v) ∧ (isNaN32 v = true → isQuietNaN32 d = true)

/-- The coefficient set `d` is `c` as it is written (R9). -/
def writtenAs (c d : Coefs) : Prop := ∀ r : CoefReg, writtenAs64 (c.get r) (d.get r)

/-- The word at `a` is the magnitude `m` as it is written (R9). -/
def holdsMagnitude (t : State) (a : Nat) (m : Word) : Prop := ∃ w, memWord? t.mem a = some w ∧ writtenAs32 m w

/-! ## Invariants -/

/-- `MEM` holds whole words only: the four bytes of a word are written together (R71, R76). -/
def wholeWords (m : List Host.Cell) : Prop :=
  ∀ a k, k < 4 → (memByte? m (4 * a + k)).isSome = (memByte? m (4 * a)).isSome

/-- A channel's cache holds the sentinel until its coefficients are valid (R35, R37). -/
def Kernel.cacheOk (k : Kernel) : Bool := k.valid || (decide (k.lastF = sentinel) && decide (k.lastR = sentinel))

/-- A binary64 pattern that is the exact image of a binary32 value, or a NaN (R36, R9). -/
def isImage32 (v : Dword) : Prop := isNaN64 v = true ∨ ∃ w : Word, to64 w = v

/-- The filter state holds binary64 images of binary32 samples (R36). -/
def Kernel.imagesOk (k : Kernel) : Prop := isImage32 k.x1 ∧ isImage32 k.x2 ∧ isImage32 k.y1 ∧ isImage32 k.y2

/-- A port's error state is consistent (R41, R211): with `ERR` = 1 there is a code and no command executes; with
`ERR` = 0 the code is `NONE`. -/
def PortState.errorOk (ps : PortState) : Bool :=
  if ps.err then decide (ps.errCode ≠ .none) && ps.job.isNone else decide (ps.errCode = .none)

/-- The commands in progress that write no kernel register and not `NCOEF`: those port D may carry (R102, R82). -/
def Job.readsOnly : Job → Bool
  | .coefWrite _ _ _ => false
  | .sampleIn _ _ _ _ => false
  | .sampleOut _ _ _ _ _ => false
  | .evalValid _ _ _ _ => true
  | .curveValid _ _ _ => true
  | .curveIn _ _ _ => true
  | .curveRate _ _ _ _ => true
  | .magRead _ _ _ _ _ _ => true
  | .rdRead _ _ _ _ => true
  | .rdWrite _ _ => true

/-- The command in progress on a port, if any, writes no kernel register and not `NCOEF`. -/
def PortState.readsOnly (ps : PortState) : Bool :=
  match ps.job with
  | none => true
  | some j => Job.readsOnly j

/-- What a command in progress relies on of its channel (R35, R136, R154, R181, R182): its coefficients are valid where it takes samples
with them or reads them, and a coefficient write is of a channel that exists. -/
def Job.channelOk (s : State) : Job → Prop
  | .coefWrite ch _ _ => ch.toNat < s.nch
  | .sampleIn ch _ _ _ => (s.kernel ch).valid = true
  | .sampleOut ch _ _ _ _ => (s.kernel ch).valid = true
  | .evalValid _ _ _ _ => True
  | .curveValid _ _ _ => True
  | .curveIn ch _ _ => (s.kernel ch).valid = true
  | .curveRate ch _ _ _ => (s.kernel ch).valid = true
  | .magRead ch _ _ _ _ _ => (s.kernel ch).valid = true
  | .rdRead ch _ _ _ => (s.kernel ch).valid = true
  | .rdWrite _ _ => True

/-- No coefficient that was not written is in use: every channel without valid coefficients has the sentinel in its cache (R35, R37), and
no command in progress takes samples with its coefficients or reads them. -/
def State.coefficientsOk (s : State) : Prop :=
  (∀ k ∈ s.kernels, Kernel.cacheOk k = true) ∧ ∀ p j, (s.portState p).job = some j → Job.channelOk s j

/-- The command in progress on the running port run to its end, at most `k` steps of it. -/
def runJobs : Nat → State → State
  | 0, s => s
  | k + 1, s =>
    match (s.portState s.cur).job with
    | none => s
    | some j => runJobs k (stepJob j s)

end Sys2Proof.Machine
end

