-- ==== Sys2Proof/Certificates/Slice0/Obligations.lean ====
section
/-! DEFINITION. The statements about the machine for the provers, each from the numbered rules of the spec. `O<n>` is its number
in OBLIGATIONS.json. -/

open Sys2Proof Sys2Proof.Machine

/-! ## Encoding (30_encoding.md) -/

/-- O1. Decoding the words of a command gives the command and the words behind it, for every command with every operand. -/
def Obligations.DecodeInvertsEncode : Prop := ∀ (i : Instr) (rest : List Word), decode (encode i ++ rest) = .ok i rest

/-- O2. Words that decode to a command are its encoding: no other words mean the same. -/
def Obligations.EncodeInvertsDecode : Prop :=
  ∀ (ws : List Word) (i : Instr) (rest : List Word), decode ws = .ok i rest → ws = encode i ++ rest

/-- The mask of a command's header, second table of R102. -/
def headerMask : Op → Word
  | .wrp => 0xFFFF00FF#32
  | .process => 0xFF00FFFE#32
  | .reset | .calcCoef | .eval | .curve | .rdcoef => 0xFF00FFFF#32

/-- The match value of a command's header, second table of R102. -/
def headerMatch : Op → Word
  | .wrp => 0x01000000#32
  | .process => 0x10000000#32
  | .reset => 0x11000000#32
  | .calcCoef => 0x12000000#32
  | .eval => 0x20000000#32
  | .curve => 0x21000000#32
  | .rdcoef => 0x22000000#32

/-- O3. A header word is accepted as a command exactly when `(h & mask) == match` (second table of R102). -/
def Obligations.HeaderAcceptedIffMatch : Prop :=
  ∀ (h : Word) (op : Op), (∃ hd, decodeHeader h = .ok hd ∧ hd.op = op) ↔ h &&& headerMask op = headerMatch op

/-- The illegal opcode values, as R109 lists them. -/
def illegalOpcode (o : Nat) : Prop := o = 0 ∨ (0x02 ≤ o ∧ o ≤ 0x0F) ∨ (0x13 ≤ o ∧ o ≤ 0x1F) ∨ (0x23 ≤ o ∧ o ≤ 0xFF)

/-- O4 (R109). The opcodes of the list, and no others, are illegal; a port that finds such a header alone raises
`ILLEGAL_OPCODE`, whatever follows it; and the all-zero word is one. -/
def Obligations.IllegalOpcodeRaised : Prop :=
  (∀ h : Word, decodeHeader h = .error .illegalOpcode ↔ illegalOpcode (h.extractLsb' 24 8).toNat) ∧
  (∀ (s : State) (p : Port) (h : Word) (ws : List Word),
    s.ready = [.port p] → (s.portState p).job = none → (s.portState p).fifo = h :: ws →
    illegalOpcode (h.extractLsb' 24 8).toNat → step s = .next ((s.setCur p).raise .illegalOpcode)) ∧
  illegalOpcode ((0 : Word).extractLsb' 24 8).toNat

/-- O5. A nonzero reserved field of a legal opcode raises `RESERVED_FIELD`, whatever follows the header (R110, R112). -/
def Obligations.ReservedFieldRaised : Prop :=
  ∀ (s : State) (p : Port) (h : Word) (ws : List Word) (op : Op),
    s.ready = [.port p] → (s.portState p).job = none → (s.portState p).fifo = h :: ws →
    h.extractLsb' 24 8 = op.code → h &&& headerMask op ≠ headerMatch op →
    step s = .next ((s.setCur p).raise .reservedField)

/-- O6 (R105). A binary64 operand is `whi ++ wlo`. -/
def Obligations.Binary64OperandOrder : Prop :=
  (∀ wlo whi : Word, (joinWords wlo whi).extractLsb' 32 32 = whi ∧ (joinWords wlo whi).extractLsb' 0 32 = wlo ∧
    joinWords (lowWord (joinWords wlo whi)) (highWord (joinWords wlo whi)) = joinWords wlo whi) ∧
  joinWords 0x00000000#32 0x3FE00000#32 = 0x3FE0000000000000#64

/-- O7. Words of the spec's own examples (95_test_vectors.md) decode to the commands they stand for. -/
def Obligations.SpecWordsDecode : Prop :=
  decode [0x01000200#32, 0x472C4400#32] = .ok (.wrp 2 0x472C4400#32) [] ∧
  decode [0x10000000#32, 0#32, 0x10#32, 5#32] = .ok (.process 0 false 0 0x10 5) [] ∧
  decode [0x11000000#32] = .ok (.reset 0) [] ∧
  decode [0x12010000#32, 0#32, 0x3FE00000#32, 0#32, 0#32] = .ok (.calcCoef 1 half 0) [] ∧
  decode [0x20010000#32, 0x459C4000#32, 0x136#32] = .ok (.eval 1 0x459C4000#32 0x136#32) [] ∧
  decode [0x21010000#32, 0x12C#32, 3#32] = .ok (.curve 1 0x12C#32 3) [] ∧
  decode [0x22010000#32, 0x140#32] = .ok (.rdcoef 1 0x140#32) []

/-! ## Steps (R79–R81, R112, R113) -/

/-- O8. When port `p` alone can move: with no command in progress and a FIFO that begins with the words of a command, the step is that
command's `exec` on port `p`, and nothing around it; with a command in progress, the step is that command's next atomic step.
That a port which can move alone runs its command in one step is the model's reading (log entry 10). -/
def Obligations.StepRunsDecodedCommand : Prop :=
  ∀ (s : State) (p : Port), s.ready = [.port p] →
    (∀ i rest, (s.portState p).job = none → decode (s.portState p).fifo = .ok i rest → step s = exec i (s.setCur p)) ∧
    (∀ j, (s.portState p).job = some j → step s = .next (stepJob j (s.setCur p)))

/-- The commands that write coefficients, and when: CALC in its domain (R132), and PROCESS with samples and accepted parameters whose
`(f, res)` differs from the cache (R154). -/
def computesCoefficients (i : Instr) (s : State) : Prop :=
  match i with
  | .calcCoef ch f res => s.cur = .R ∧ ch.toNat < s.nch ∧ lt64 0 f = true ∧ le64 f one = true ∧ isFinite64 res = true
  | .process ch _ src dst n =>
    s.cur = .R ∧ ch.toNat < s.nch ∧ 0 < n.toNat ∧ src.toNat + n.toNat ≤ s.cfg.memWords ∧ dst.toNat + n.toNat ≤ s.cfg.memWords ∧
      ∃ f res, preamble s.params = .ok (f, res) ∧ ¬(eq64 f (s.kernel ch).lastF = true ∧ eq64 res (s.kernel ch).lastR = true)
  | .wrp _ _ | .reset _ | .eval _ _ _ | .curve _ _ _ | .rdcoef _ _ => False

/-- O9. `NCOEF` counts coefficient computations (R46): a whole command adds exactly 1 when it computes coefficients and nothing
otherwise; of the atomic steps exactly the sixth of a coefficient write (nothing left to write) adds 1, and the others leave it; a
host move leaves it, but for power-on reset, which sets it to 0; so a step changes it in these ways only. The host's reads
return it and its writes to it are ignored. -/
def Obligations.NcoefCounts : Prop :=
  (∀ (i : Instr) (s t : State), exec i s = .next t →
    (computesCoefficients i s → t.ncoef = s.ncoef + 1) ∧ (¬computesCoefficients i s → t.ncoef = s.ncoef)) ∧
  (∀ (i : Instr) (s : State), (startCommand i s).ncoef = s.ncoef) ∧
  (∀ (j : Job) (s : State),
    ((∃ ch next, j = .coefWrite ch [] next) → (stepJob j s).ncoef = s.ncoef + 1) ∧
    ((¬∃ ch next, j = .coefWrite ch [] next) → (stepJob j s).ncoef = s.ncoef)) ∧
  (∀ (m : HostMove) (s t : State), hostMove m s = .next t → t.ncoef = if m = .powerOn then 0 else s.ncoef) ∧
  (∀ s t : State, step s = .next t →
    t.ncoef = s.ncoef ∨
    (t.ncoef = 0 ∧ ∃ ms, s.host = .powerOn :: ms) ∨
    (t.ncoef = s.ncoef + 1 ∧ ∃ p, .port p ∈ s.ready ∧
      ((∃ ch next, (s.portState p).job = some (.coefWrite ch [] next)) ∨
       (s.ready = [.port p] ∧ (s.portState p).job = none ∧
         ∃ i rest, decode (s.portState p).fifo = .ok i rest ∧ computesCoefficients i (s.setCur p))))) ∧
  (∀ (s : State) (p : Port), s.ready = [.port p] →
    ((∃ ch next, (s.portState p).job = some (.coefWrite ch [] next)) ∨
      ((s.portState p).job = none ∧ ∃ i rest, decode (s.portState p).fifo = .ok i rest ∧ computesCoefficients i (s.setCur p))) →
    ∃ t, step s = .next t ∧ t.ncoef = s.ncoef + 1) ∧
  (∀ (s : State) (w : Word), hostMove (.regRead 0x20 4) s = .next (s.answer s.ncoef) ∧ hostMove (.regWrite 0x20 4 w) s = .next s)

/-- O10. Among several agents that can move, one, freely chosen, makes one atomic step (R80, R81): the host its next move; a port with a
command in progress the next atomic step of it; a port without one begins the command its FIFO holds, by that command's first atomic
step alone, or raises the error of the header it finds. The form of the free choice is the model's (log entry 9). -/
def Obligations.StepInterleavesAtomicSteps : Prop :=
  ∀ s : State, 2 ≤ s.ready.length →
    ∃ a, s.ready[Config.pick s.ticks % s.ready.length]? = some a ∧
      (let u := s.setTicks (s.ticks + 1)
       match a with
       | .host => step s = hostStep u
       | .port p =>
         match (s.portState p).job with
         | some j => step s = .next (stepJob j (u.setCur p))
         | none =>
           match decode (s.portState p).fifo with
           | .ok i _ => step s = .next (startCommand i (u.setCur p))
           | .bad e => step s = .next ((u.setCur p).raise (codeOfDecodeError e))
           | .short hd => ∃ c, headerFault p s.nch hd = some c ∧ step s = .next ((u.setCur p).raise c)
           | .empty => False)

/-- O11. A command with a good header whose operand words are not all there is given no step (R113): its port cannot move, and when
nothing else can and no port has an error, the machine is stuck.
The named fault is the model's choice (log entry 15). -/
def Obligations.TruncatedCommandWaits : Prop :=
  ∀ (s : State) (p : Port) (hd : Header),
    (s.portState p).job = none → decode (s.portState p).fifo = .short hd → headerFault p s.nch hd = none →
    s.portReady p = false ∧
      (s.ready = [] → s.portR.err = false → s.portD.err = false → step s = .fault .operandsMissing)

/-- O12. The header checks do not wait for operand words (R112, R113): a port that finds a header error raises it. -/
def Obligations.HeaderErrorNeverWaits : Prop :=
  ∀ (s : State) (p : Port) (hd : Header) (c : ErrCode),
    (s.portState p).err = false → (s.portState p).job = none →
    decode (s.portState p).fifo = .short hd → headerFault p s.nch hd = some c →
    s.portReady p = true ∧ (s.ready = [.port p] → step s = .next ((s.setCur p).raise c))

/-- O13. Whatever the command and the state, `exec` answers a next state: no command faults and none is refused. -/
def Obligations.EveryCommandAnswers : Prop := ∀ (i : Instr) (s : State), ∃ t, exec i s = .next t

/-- O14. The atomic steps of a command, run by its port alone, come to the state that the whole command gives, but for the count of
free choices (R81, R82, R131, R184: in whatever order the coefficient registers are written and read).
The grouping into steps and the free orders are the model's (log entries 10 to 12). -/
def Obligations.AtomicStepsReachWholeCommand : Prop :=
  ∀ (i : Instr) (s t : State), (s.portState s.cur).job = none → exec i s = .next t →
    ∃ k, ((runJobs k (startCommand i s)).portState s.cur).job = none ∧
      (runJobs k (startCommand i s)).setTicks 0 = t.setTicks 0

/-! ## Errors (60_exceptions.md) -/

/-- Whether a command may run on port R only (third column of R102). -/
def isRenderOnly : Instr → Bool
  | .process _ _ _ _ _ | .reset _ | .calcCoef _ _ _ => true
  | .wrp _ _ | .eval _ _ _ | .curve _ _ _ | .rdcoef _ _ => false

/-- The channel a command names, when it names one (R106). -/
def channelOf : Instr → Option Nat
  | .wrp _ _ => none
  | .process ch _ _ _ _ | .reset ch | .calcCoef ch _ _ | .eval ch _ _ | .curve ch _ _ | .rdcoef ch _ => some ch.toNat

/-- The conditions of a command's own errors in the order of R214, for a CURVE those before its entries. -/
def ownChecks (s : State) : Instr → List (Bool × ErrCode)
  | .wrp _ _ => []
  | .reset _ => []
  | .calcCoef _ f res => [(!(lt64 0 f && le64 f one) || !isFinite64 res, .domain)]
  | .process _ _ src dst n =>
    if n = 0 then []
    else
      [(decide (s.cfg.memWords < src.toNat + n.toNat) || decide (s.cfg.memWords < dst.toNat + n.toNat), .addrRange),
       (!s.params.cutValid || !s.params.resValid || !s.params.rateValid, .uninitParam),
       (isNaN64 (to64 s.params.cut) || isNaN64 (to64 s.params.res) || !isFinite64 (to64 s.params.rate) ||
          !lt64 0 (to64 s.params.rate), .domain)]
  | .eval ch freq dst =>
    [(decide (s.cfg.memWords < dst.toNat + 1), .addrRange),
     (!s.params.rateValid, .uninitParam),
     (!(s.kernel ch).valid, .uninitCoef),
     (!isFinite64 (to64 s.params.rate) || !lt64 0 (to64 s.params.rate) || !isFinite64 (to64 freq), .domain),
     ((magnitude (s.kernel ch).coef (to64 freq) (to64 s.params.rate)).isNone, .degenerate)]
  | .curve ch a n =>
    if n = 0 then []
    else
      [(decide (s.cfg.memWords < a.toNat + 2 * n.toNat), .addrRange),
       (!s.params.rateValid, .uninitParam),
       (!(s.kernel ch).valid, .uninitCoef)]
  | .rdcoef ch dst =>
    [(decide (s.cfg.memWords < dst.toNat + 10), .addrRange), (!(s.kernel ch).valid, .uninitCoef)]

/-- All conditions of a command's errors in the order of R214 (`ILLEGAL_OPCODE` and `RESERVED_FIELD` are decided before there is
a command). -/
def allChecks (s : State) (i : Instr) : List (Bool × ErrCode) :=
  [(decide (s.cur = .D) && isRenderOnly i, .port),
   (match channelOf i with | some ch => decide (s.nch ≤ ch) | none => false, .badChannel),
   (match i with | .wrp sel _ => decide (2 < sel.toNat) | _ => false, .badSelect)] ++ ownChecks s i

/-- O15 (R212). An error of any command sets `ERR`, `ERRCODE` and `ERRCP` of its port, `ERRCP` being `CP`; `CP` and the command's words in
the FIFO stay, the port is halted, and no register changes; and an error of any command but CURVE, and each error of a CURVE that
R214 lists before its entries, changes nothing else either. -/
def Obligations.ErrorsArePrecise : Prop :=
  ∀ (i : Instr) (s : State), (s.portState s.cur).err = false →
    ∃ t, exec i s = .next t ∧
      ((t.portState s.cur).err = true →
        failedWith (t.portState s.cur).errCode s t ∧ (t.portState s.cur).errCode ≠ .none ∧ keepsOthers s t ∧
          t.kernels = s.kernels ∧ t.params = s.params ∧ t.ncoef = s.ncoef ∧ t.portReady s.cur = false ∧
          ((∀ ch a n, i ≠ .curve ch a n) ∨ (∃ c ∈ allChecks s i, c.1 = true) → t.mem = s.mem ∧ t.draws = s.draws))

/-- O16. A command reports the first of its error conditions in the order of R214, and any command but a CURVE of one or more
entries that meets none of them ends without an error. (The errors of a CURVE's entries are O48.) -/
def Obligations.FirstErrorReported : Prop :=
  ∀ (i : Instr) (s : State), (s.portState s.cur).err = false →
    ∃ t, exec i s = .next t ∧
      match (allChecks s i).find? (·.1) with
      | some (_, c) => failedWith c s t
      | none => (∃ ch a n, i = .curve ch a n ∧ n ≠ 0) ∨ completed i.len s t

/-- O17 (R215). While `ERR[P]` = 1 the port cannot move, `STATUS_P.IDLE` reads 0, pushes to it are discarded, and no step changes its
`CP`, `ERRCP`, `ERRCODE` and FIFO but the host's clear and power-on reset; the other port goes on. -/
def Obligations.HaltedPortFrozen : Prop :=
  ∀ (s : State) (p : Port), (s.portState p).err = true →
    s.portReady p = false ∧ (s.portState p).status.getLsbD 1 = false ∧ (∀ w, s.push p w = s) ∧
    (∀ t, step s = .next t → t.portState p = s.portState p ∨
      (∃ off w ms, s.host = .regWrite off 4 w :: ms ∧ off = (match p with | .R => 0x08 | .D => 0x0C) ∧ w.getLsbD 0 = true) ∨
      (∃ ms, s.host = .powerOn :: ms)) ∧
    (∀ q, s.ready = [.port q] → q ≠ p ∧ step s = s.aloneStep (.port q))

/-- O18 (R216). The host's write of bit 0 = 1 to `STATUS_P` while `ERR[P]` = 1 empties the FIFO, advances `CP` by the number of words
removed, clears `ERR` and `ERRCODE` and keeps `ERRCP`, and changes nothing else; the next word pushed is then the head of
the FIFO. -/
def Obligations.ErrorClearFlushesFifo : Prop :=
  ∀ (s : State) (p : Port) (w : Word), (s.portState p).err = true → w.getLsbD 0 = true →
    ∃ t, hostMove (.regWrite (match p with | .R => 0x08 | .D => 0x0C) 4 w) s = .next t ∧
      t.portState p =
        { s.portState p with
          fifo := []
          cp := (s.portState p).cp + BitVec.ofNat 32 (s.portState p).fifo.length
          err := false
          errCode := .none } ∧
      (∀ q, q ≠ p → t.portState q = s.portState q) ∧ t.kernels = s.kernels ∧ t.params = s.params ∧ t.ncoef = s.ncoef ∧
      t.mem = s.mem ∧ (∀ v, ((t.push p v).portState p).fifo = [v])

/-- O19. A write to `STATUS_P` with bit 0 = 0, or while `ERR[P]` = 0, has no effect (R44). -/
def Obligations.StatusWriteWithoutEffect : Prop :=
  ∀ (s : State) (p : Port) (w : Word), (s.portState p).err = false ∨ w.getLsbD 0 = false →
    hostMove (.regWrite (match p with | .R => 0x08 | .D => 0x0C) 4 w) s = .next s

/-- O20. The error state stays consistent in every step (R41, R211, R212, R216): a code exactly while `ERR` = 1, and no command executing
then. -/
def Obligations.ErrorStateInvariant : Prop :=
  ∀ s t : State, s.portR.errorOk = true → s.portD.errorOk = true → step s = .next t →
    t.portR.errorOk = true ∧ t.portD.errorOk = true

/-! ## The host's registers (10_state.md R42–R48) and MEM -/

/-- The byte offset of `CMD_P` (R42). -/
def commandOffset : Port → Nat
  | .R => 0x00
  | .D => 0x04

/-- O21. The host's write to `CMD_P` as its next move (R43): with `ERR` = 0 and room in the FIFO the host can move, and the word is appended;
with `ERR` = 1 it can move, and the word is discarded; with `ERR` = 0 and a full FIFO the host cannot move, so it stalls. Nothing but the
FIFO and the host's list changes. A read of `CMD_P` returns 0 and has no effect. -/
def Obligations.PushAppendsOrDiscards : Prop :=
  ∀ (s : State) (p : Port) (w : Word) (ms : List HostMove), s.host = .regWrite (commandOffset p) 4 w :: ms →
    ((s.portState p).err = false → (s.portState p).fifo.length < s.cfg.fifoDepth →
      .host ∈ s.ready ∧
        hostStep s =
          .next ((s.setHost ms).setPort p { s.portState p with fifo := (s.portState p).fifo ++ [w] })) ∧
    ((s.portState p).err = true → .host ∈ s.ready ∧ hostStep s = .next (s.setHost ms)) ∧
    ((s.portState p).err = false → s.cfg.fifoDepth ≤ (s.portState p).fifo.length → .host ∉ s.ready) ∧
    hostMove (.regRead (commandOffset p) 4) s = .next (s.answer 0)

/-- O22. The status registers (R44, R42): the bits of `STATUS_P`; a host read at 0x08 returns `STATUS_R` and at 0x0C `STATUS_D`, and changes
nothing of the block (a read with `IDLE` = 1 shows the host that the port's commands are complete, R249, and one with `ERR` = 1 that it has an
error to handle, R252; the model's records of that are log entry 18); and the 4-bit values of the error codes (R211). -/
def Obligations.StatusLayout : Prop :=
  (∀ ps : PortState,
    ps.status.getLsbD 0 = ps.err ∧
    (ps.status.getLsbD 1 = true ↔ ps.err = false ∧ ps.job = none ∧ ps.fifo = []) ∧
    ps.status.extractLsb' 2 2 = 0 ∧ ps.status.extractLsb' 4 4 = ps.errCode.bits ∧ ps.status.extractLsb' 8 24 = 0) ∧
  (∀ (s : State) (p : Port),
    hostMove (.regRead (match p with | .R => 0x08 | .D => 0x0C) 4) s =
      .next (((s.answer (s.portState p).status).setUnseen
        (if (s.portState p).err = false ∧ (s.portState p).job = none ∧ (s.portState p).fifo = [] then
          s.unseen.filter (fun e => decide (e.1 ≠ p)) else s.unseen)).setErrorsSeen
        (if (s.portState p).err = true then s.errorsSeen.insert p else s.errorsSeen))) ∧
  [ErrCode.none, .illegalOpcode, .reservedField, .port, .badChannel, .badSelect, .addrRange, .uninitParam, .uninitCoef, .domain,
    .degenerate].map (fun c => c.bits.toNat) = [0, 1, 2, 3, 4, 5, 6, 7, 8, 9, 10]

/-- O23 (R45). `ERRCP_R`, `ERRCP_D`, `CP_R` and `CP_D` return the registers, and writes to them are ignored. (A read of `CP_P` shows the
host that the port's commands are complete, R249; the model's record of that is log entry 18.) -/
def Obligations.PointerRegistersRead : Prop :=
  ∀ (s : State) (w : Word),
    hostMove (.regRead 0x10 4) s = .next (s.answer s.portR.errCp) ∧
    hostMove (.regRead 0x14 4) s = .next (s.answer s.portD.errCp) ∧
    hostMove (.regRead 0x18 4) s =
      .next ((s.answer s.portR.cp).setUnseen (s.unseen.filter (fun e => decide (e.1 ≠ .R)))) ∧
    hostMove (.regRead 0x1C 4) s =
      .next ((s.answer s.portD.cp).setUnseen (s.unseen.filter (fun e => decide (e.1 ≠ .D)))) ∧
    hostMove (.regWrite 0x10 4 w) s = .next s ∧ hostMove (.regWrite 0x14 4 w) s = .next s ∧
    hostMove (.regWrite 0x18 4 w) s = .next s ∧ hostMove (.regWrite 0x1C 4 w) s = .next s

/-- O24 (R47). `CONFIG` returns `NCH` in bits 8:0 and 0 above, `MEMSIZE` returns `MEM_WORDS` − 1, and writes to them are ignored. -/
def Obligations.ConfigurationRegistersRead : Prop :=
  ∀ (s : State) (w : Word), s.nch ≤ 256 → 1 ≤ s.cfg.memWords → s.cfg.memWords ≤ 2 ^ 32 →
    (∃ v, hostMove (.regRead 0x24 4) s = .next (s.answer v) ∧ (v.extractLsb' 0 9).toNat = s.nch ∧ v.extractLsb' 9 23 = 0) ∧
    (∃ v, hostMove (.regRead 0x28 4) s = .next (s.answer v) ∧ v.toNat = s.cfg.memWords - 1) ∧
    hostMove (.regWrite 0x24 4 w) s = .next s ∧ hostMove (.regWrite 0x28 4 w) s = .next s

/-- O25 (R48). A host access that is not 32 bits at a 4-aligned offset in 0x00 … 0xFC is refused; a read of a reserved offset returns 0
and a write to one is ignored; a read has no side effect on the block (it changes only the model's records of the host:
the words returned to it, and what it has seen, log entries 14 and 18). -/
def Obligations.RegisterAccessesOfR48 : Prop :=
  ∀ (s : State) (off size : Nat) (w : Word),
    (¬(size = 4 ∧ off % 4 = 0 ∧ off ≤ 0xFC) →
      hostMove (.regRead off size) s = .refused .hostRegisterAccess ∧
      hostMove (.regWrite off size w) s = .refused .hostRegisterAccess) ∧
    (size = 4 ∧ off % 4 = 0 ∧ off ≤ 0xFC →
      (∃ v u e, hostMove (.regRead off size) s = .next (((s.answer v).setUnseen u).setErrorsSeen e) ∧
        (0x2C ≤ off → v = 0 ∧ u = s.unseen ∧ e = s.errorsSeen)) ∧
      (0x2C ≤ off → hostMove (.regWrite off size w) s = .next s))

/-- The words a command reads or writes (R70, R74). -/
def usesWord (i : Instr) (x : Nat) : Prop :=
  match i with
  | .process _ _ src dst n => (src.toNat ≤ x ∧ x < src.toNat + n.toNat) ∨ (dst.toNat ≤ x ∧ x < dst.toNat + n.toNat)
  | .eval _ _ dst => x = dst.toNat
  | .curve _ a n => a.toNat ≤ x ∧ x < a.toNat + 2 * n.toNat
  | .rdcoef _ dst => dst.toNat ≤ x ∧ x < dst.toNat + 10
  | .wrp _ _ | .reset _ | .calcCoef _ _ _ => False

/-- A port has, of a word, a pushed command that uses it and has not completed, or a completed one that the host has not seen to be
(R248, R249). -/
def usesWordOf (s : State) (p : Port) (x : Nat) : Prop :=
  (∃ i ∈ wholeCommands (s.portState p).fifo.length (s.portState p).fifo, usesWord i x) ∨ ∃ i, (p, i) ∈ s.unseen ∧ usesWord i x

/-- O26. A host access to `MEM` that is not one whole aligned word is refused (R75), and one outside `MEM` faults (R70). A read returns the
word last written, or a free draw where there is none (R72). A write is refused while a command uses the word that is in a FIFO,
or that has completed unseen by the host (R248, R249), but for the commands of a halted port whose error the host has read in
`STATUS_P`, and is handling until its clear (R252); otherwise it is made, and it changes no other word, no port, no kernel register, no
parameter and not `NCOEF` (R71, R88). The refusals and the fault are log entries 17 and 18, the form of the draw is log entry 6. -/
def Obligations.HostMemoryAccesses : Prop :=
  (∀ (s : State) (off size : Nat) (w : Word),
    (¬(size = 4 ∧ off % 4 = 0) →
      hostMove (.memRead off size) s = .refused .hostMemAccess ∧ hostMove (.memWrite off size w) s = .refused .hostMemAccess) ∧
    (size = 4 ∧ off % 4 = 0 → s.cfg.memWords ≤ off / 4 →
      hostMove (.memRead off size) s = .fault .hostMemRange ∧ hostMove (.memWrite off size w) s = .fault .hostMemRange) ∧
    (size = 4 ∧ off % 4 = 0 → off / 4 < s.cfg.memWords →
      (∀ p, usesWordOf s p (off / 4) → (s.portState p).err = true ∧ p ∈ s.errorsSeen) →
      ∃ t, hostMove (.memWrite off size w) s = .next t ∧ memWord? t.mem (off / 4) = some w ∧ memoryExcept (off / 4) 1 s t ∧
        (∀ q, t.portState q = s.portState q) ∧ t.kernels = s.kernels ∧ t.params = s.params ∧ t.ncoef = s.ncoef ∧
        t = s.setMem t.mem) ∧
    (size = 4 ∧ off % 4 = 0 → off / 4 < s.cfg.memWords →
      (∃ p, usesWordOf s p (off / 4) ∧ ¬((s.portState p).err = true ∧ p ∈ s.errorsSeen)) →
      hostMove (.memWrite off size w) s = .refused .hostRace) ∧
    (size = 4 ∧ off % 4 = 0 → off / 4 < s.cfg.memWords → ∀ v, memWord? s.mem (off / 4) = some v →
      hostMove (.memRead off size) s = .next (s.answer v)) ∧
    (size = 4 ∧ off % 4 = 0 → off / 4 < s.cfg.memWords → memWord? s.mem (off / 4) = none →
      hostMove (.memRead off size) s = .next ((s.setDraws (s.draws + 1)).answer (Config.unwrittenDraw s.draws)))) ∧
  (∀ (s t : State) (p : Port) (w : Word), (s.portState p).err = true →
    (hostMove (.regRead (match p with | .R => 0x08 | .D => 0x0C) 4) s = .next t → p ∈ t.errorsSeen) ∧
    (w.getLsbD 0 = true → hostMove (.regWrite (match p with | .R => 0x08 | .D => 0x0C) 4 w) s = .next t → p ∉ t.errorsSeen))

/-- O27. Power-on reset puts every piece of state to its value of R49, whatever command is in progress, and writes no `MEM` word (R240); the
registers R49 leaves unspecified hold the model's choice (log entries 7, 8), of which this says nothing. -/
def Obligations.PowerOnResetState : Prop :=
  ∀ s : State, ∃ t, hostMove .powerOn s = .next t ∧ t.mem = s.mem ∧ t.nch = s.nch ∧ t.cfg = s.cfg ∧ t.ncoef = 0 ∧
    (∀ k ∈ t.kernels, k.valid = false ∧ k.x1 = 0 ∧ k.x2 = 0 ∧ k.y1 = 0 ∧ k.y2 = 0 ∧ k.lastF = 0xBFF0000000000000#64 ∧
      k.lastR = 0xBFF0000000000000#64) ∧
    t.params.cutValid = false ∧ t.params.resValid = false ∧ t.params.rateValid = false ∧
    ∀ p, (t.portState p).cp = 0 ∧ (t.portState p).fifo = [] ∧ (t.portState p).err = false ∧ (t.portState p).errCode.bits = 0 ∧
      (t.portState p).errCp = 0 ∧ (t.portState p).job = none ∧ (t.portState p).status = 0x00000002#32

/-- O28. The end of a run (R251) is where no push is left to the host and both `STATUS` registers read 0x00000002, for consistent error
states (O20), whatever other moves the host has left; no move of the host's other than a push leaves it; and with no host move at all
the machine stays as it is. Staying as it is, is the model's choice (log entry 15). -/
def Obligations.EndOfRun : Prop :=
  ∀ s : State, s.portR.errorOk = true → s.portD.errorOk = true →
    (s.isFinal = true ↔
      (∀ m ∈ s.host, ∀ w p, m ≠ .regWrite (commandOffset p) 4 w) ∧
        s.portR.status = 0x00000002#32 ∧ s.portD.status = 0x00000002#32) ∧
    (s.isFinal = true → ∀ t, step s = .next t → t.isFinal = true) ∧
    (s.isFinal = true → s.host = [] → step s = .next s)

/-! ## Memory (20_memory.md) -/

/-- O29. `MemRead` returns the word last written, every other word is as before, and a read changes nothing (R71, R76). -/
def Obligations.MemoryReadsLastWrite : Prop :=
  ∀ (s : State) (a b : Nat) (w v : Word),
    (s.memWrite a w).memRead a = (w, s.memWrite a w) ∧
    (b ≠ a → memWord? s.mem b = some v → (s.memWrite a w).memRead b = (v, s.memWrite a w)) ∧
    (b ≠ a → memWord? s.mem b = none → memWord? (s.memWrite a w).mem b = none)

/-- O30. A read of a word that no agent has written gives a free draw, a new one at each read, and changes nothing but the count
of draws (R72).
The form of the draw is the model's (log entry 6). -/
def Obligations.UnwrittenReadIsFreshDraw : Prop :=
  ∀ (s : State) (a : Nat), memWord? s.mem a = none →
    s.memRead a = (Config.unwrittenDraw s.draws, s.setDraws (s.draws + 1)) ∧
    ((s.memRead a).2.memRead a).1 = Config.unwrittenDraw (s.draws + 1)

/-- O31. Every step keeps `MEM` in its canonical form and made of whole words. That the words are written whole is R71 and R76; the
canonical form itself (byte cells, addresses strictly rising) is the model's choice (log entry 20). -/
def Obligations.MemoryFormInvariant : Prop :=
  ∀ s t : State, Memory.wf s.mem = true → wholeWords s.mem → step s = .next t → Memory.wf t.mem = true ∧ wholeWords t.mem

/-- O32. The state after reset has the invariants of O20, O31, O55, O57, O58 and O59.
The ranges of the parameters are those of 00_scope.md section 4 (log entries 1 and 2). -/
def Obligations.ResetMeetsInvariants : Prop :=
  Memory.wf State.reset.mem = true ∧ wholeWords State.reset.mem ∧
  State.reset.portR.errorOk = true ∧ State.reset.portD.errorOk = true ∧
  State.reset.portD.readsOnly = true ∧
  State.reset.coefficientsOk ∧ (∀ k ∈ State.reset.kernels, Kernel.imagesOk k) ∧
  State.reset.portR.fifo.length ≤ State.reset.cfg.fifoDepth ∧ State.reset.portD.fifo.length ≤ State.reset.cfg.fifoDepth ∧
  5 ≤ State.reset.cfg.fifoDepth ∧ 1 ≤ State.reset.nch ∧ State.reset.nch ≤ 256 ∧
  1 ≤ State.reset.cfg.memWords ∧ State.reset.cfg.memWords ≤ 2 ^ 32

/-! ## Numerics (00_scope.md R4–R13) -/

/-- The biased exponent of a pattern (R4). -/
def exponentField (F : FloatFmt) (b : Nat) : Nat := b / 2 ^ F.fbits % 2 ^ F.ebits

/-- The fraction of a pattern (R4). -/
def fractionField (F : FloatFmt) (b : Nat) : Nat := b % 2 ^ F.fbits

/-- The sign bit of a pattern is 1 (R4). -/
def signField (F : FloatFmt) (b : Nat) : Prop := b / 2 ^ (F.ebits + F.fbits) % 2 = 1

/-- A pattern of a number, in the layout of R4: every exponent but the largest. -/
def patternFinite (F : FloatFmt) (b : Nat) : Prop := exponentField F b ≠ 2 ^ F.ebits - 1

/-- A pattern of an infinity. -/
def patternInfinite (F : FloatFmt) (b : Nat) : Prop := exponentField F b = 2 ^ F.ebits - 1 ∧ fractionField F b = 0

/-- A pattern of a NaN. -/
def patternNaN (F : FloatFmt) (b : Nat) : Prop := exponentField F b = 2 ^ F.ebits - 1 ∧ fractionField F b ≠ 0

/-- The value of a pattern of a number, with bias 127 for binary32 and 1023 for binary64 (R4); a subnormal has no hidden bit (R8). -/
def patternValue (F : FloatFmt) (b : Nat) : ℚ :=
  (-1) ^ (b / 2 ^ (F.ebits + F.fbits) % 2) *
    (if exponentField F b = 0 then (fractionField F b : ℚ) * 2 ^ (1 - (2 ^ (F.ebits - 1) - 1) - F.fbits : ℤ)
    else ((2 ^ F.fbits + fractionField F b : ℕ) : ℚ) * 2 ^ (exponentField F b - (2 ^ (F.ebits - 1) - 1) - F.fbits : ℤ))

/-- The value of a pattern that is no NaN, among the rationals with the two infinities. -/
def patternExtended (F : FloatFmt) (b : Nat) : WithBot (WithTop ℚ) :=
  if exponentField F b ≠ 2 ^ F.ebits - 1 then ((patternValue F b : WithTop ℚ) : WithBot (WithTop ℚ))
  else if b / 2 ^ (F.ebits + F.fbits) % 2 = 1 then ⊥
  else ((⊤ : WithTop ℚ) : WithBot (WithTop ℚ))

/-- Half a last place above the largest finite value of a format: from here on a result rounds to infinity (R7). -/
def overflowBound (F : FloatFmt) : ℚ := 2 ^ 2 ^ (F.ebits - 1) - 2 ^ (2 ^ (F.ebits - 1) - F.fbits - 2)

/-- The pattern `r` is the nonzero value `q` rounded once, to nearest with ties to even (R5, R7, R8): it has the sign of `q`; it is an infinity
from the overflow bound on; below it is a number, no number is nearer, and at a tie its last bit is 0. -/
def correctlyRounded (F : FloatFmt) (q : ℝ) (r : Nat) : Prop :=
  (signField F r ↔ q < 0) ∧
  ((overflowBound F : ℝ) ≤ |q| → patternInfinite F r) ∧
  (|q| < (overflowBound F : ℝ) → patternFinite F r ∧
    ∀ b, b < 2 ^ (F.ebits + F.fbits + 1) → patternFinite F b →
      |(patternValue F r : ℝ) - q| ≤ |(patternValue F b : ℝ) - q| ∧
      (|(patternValue F r : ℝ) - q| = |(patternValue F b : ℝ) - q| → patternValue F b ≠ patternValue F r → fractionField F r % 2 = 0))

/-- A binary64 zero with a sign. -/
def signedZero (neg : Bool) : Dword := if neg then 0x8000000000000000#64 else 0

/-- A binary64 infinity with a sign. -/
def signedInfinity (neg : Bool) : Dword := if neg then 0xFFF0000000000000#64 else 0x7FF0000000000000#64

/-- The binary64 operations on numbers (R5, R11): the exact result rounded once; a zero result by IEEE 754's rule of signs; division
by zero and roots of negative numbers by their IEEE 754 results (R14). -/
def finiteArithmetic : Prop :=
  (∀ a b : Dword, patternFinite binary64 a.toNat → patternFinite binary64 b.toNat →
    (let x := patternValue binary64 a.toNat
     let y := patternValue binary64 b.toNat
     (x + y ≠ 0 → correctlyRounded binary64 ((x + y : ℚ) : ℝ) (add64 a b).toNat) ∧
     (x + y = 0 → add64 a b = signedZero (a.msb && b.msb)) ∧
     (x * y ≠ 0 → correctlyRounded binary64 ((x * y : ℚ) : ℝ) (mul64 a b).toNat) ∧
     (x * y = 0 → mul64 a b = signedZero (a.msb ^^ b.msb)) ∧
     (x ≠ 0 → y ≠ 0 → correctlyRounded binary64 ((x / y : ℚ) : ℝ) (div64 a b).toNat) ∧
     (x = 0 → y ≠ 0 → div64 a b = signedZero (a.msb ^^ b.msb)) ∧
     (x ≠ 0 → y = 0 → div64 a b = signedInfinity (a.msb ^^ b.msb)) ∧
     (x = 0 → y = 0 → patternNaN binary64 (div64 a b).toNat) ∧
     (0 < x → correctlyRounded binary64 (Real.sqrt (x : ℝ)) (sqrt64 a).toNat) ∧
     (x = 0 → sqrt64 a = a) ∧
     (x < 0 → patternNaN binary64 (sqrt64 a).toNat))) ∧
  (∀ a b : Dword, sub64 a b = add64 a (b ^^^ 0x8000000000000000#64))

/-- The binary64 operations on infinities and NaNs (R5, R9). -/
def specialArithmetic : Prop :=
  (∀ a b : Dword, patternInfinite binary64 a.toNat → patternInfinite binary64 b.toNat →
    (a.msb = b.msb → add64 a b = a) ∧ (a.msb ≠ b.msb → patternNaN binary64 (add64 a b).toNat) ∧
    mul64 a b = signedInfinity (a.msb ^^ b.msb) ∧ patternNaN binary64 (div64 a b).toNat) ∧
  (∀ a b : Dword, patternInfinite binary64 a.toNat → patternFinite binary64 b.toNat →
    add64 a b = a ∧ add64 b a = a ∧ div64 a b = signedInfinity (a.msb ^^ b.msb) ∧ div64 b a = signedZero (a.msb ^^ b.msb) ∧
    (patternValue binary64 b.toNat ≠ 0 →
      mul64 a b = signedInfinity (a.msb ^^ b.msb) ∧ mul64 b a = signedInfinity (a.msb ^^ b.msb)) ∧
    (patternValue binary64 b.toNat = 0 → patternNaN binary64 (mul64 a b).toNat ∧ patternNaN binary64 (mul64 b a).toNat)) ∧
  (∀ a : Dword, patternInfinite binary64 a.toNat →
    (a.msb = false → sqrt64 a = a) ∧ (a.msb = true → patternNaN binary64 (sqrt64 a).toNat)) ∧
  (∀ a b : Dword, patternNaN binary64 a.toNat ∨ patternNaN binary64 b.toNat →
    patternNaN binary64 (add64 a b).toNat ∧ patternNaN binary64 (mul64 a b).toNat ∧ patternNaN binary64 (div64 a b).toNat) ∧
  (∀ a : Dword, patternNaN binary64 a.toNat → patternNaN binary64 (sqrt64 a).toNat)

/-- `round32` (R7): a number rounded once to binary32; zeros and infinities keep their sign, a NaN gives a NaN. -/
def narrowing : Prop :=
  ∀ a : Dword,
    (patternFinite binary64 a.toNat → patternValue binary64 a.toNat ≠ 0 →
      correctlyRounded binary32 (patternValue binary64 a.toNat : ℝ) (round32 a).toNat) ∧
    (patternFinite binary64 a.toNat → patternValue binary64 a.toNat = 0 → round32 a = if a.msb then 0x80000000#32 else 0) ∧
    (patternInfinite binary64 a.toNat → round32 a = if a.msb then 0xFF800000#32 else 0x7F800000#32) ∧
    (patternNaN binary64 a.toNat → patternNaN binary32 (round32 a).toNat)

/-- The rational value of the magnitude bits of a finite pattern. -/
def magnitudeValue (F : FloatFmt) (b : Nat) : ℚ :=
  match F.unpack b with
  | .fin _ m e => m * (2 : ℚ) ^ e
  | .inf _ => 0
  | .nan => 0

/-- O33. Rounding is to nearest with ties to even, with gradual underflow and overflow to infinity (R5, R7, R8), in both formats:
no pattern is nearer to the exact value, a tie goes to the even pattern, and infinity results exactly from half a last place
above the largest finite value on. And `add64`, `sub64`, `mul64`, `div64`, `sqrt64` and `round32` are the exact result rounded so once (R5,
R7, R11), with IEEE 754's results for zeros, infinities and NaNs. IEEE 754 as log entry 21 has it. -/
def Obligations.RoundingIsToNearestEven : Prop :=
  (∀ (F : FloatFmt) (m : Nat) (e : Int), F = binary32 ∨ F = binary64 →
    (F.roundMag m e < F.infBits → ∀ b, b < F.infBits →
      |magnitudeValue F (F.roundMag m e) - m * (2 : ℚ) ^ e| ≤ |magnitudeValue F b - m * (2 : ℚ) ^ e| ∧
      (|magnitudeValue F (F.roundMag m e) - m * (2 : ℚ) ^ e| = |magnitudeValue F b - m * (2 : ℚ) ^ e| →
        b ≠ F.roundMag m e → F.roundMag m e % 2 = 0)) ∧
    (F.roundMag m e = F.infBits ↔
      magnitudeValue F (F.infBits - 1) + (magnitudeValue F (F.infBits - 1) - magnitudeValue F (F.infBits - 2)) / 2 ≤
        m * (2 : ℚ) ^ e) ∧
    F.roundMag m e ≤ F.infBits) ∧
  finiteArithmetic ∧ specialArithmetic ∧ narrowing

/-- O34. `to64` is exact (R7): for every binary32 pattern that is no NaN, the binary64 pattern has its sign and, in the layouts of R4, its
value, infinities included, and `round32` gives the pattern back; a NaN goes to a quiet NaN. IEEE 754 as log entry 21 has it. -/
def Obligations.To64IsExact : Prop :=
  ∀ w : Word, (isNaN32 w = true ↔ patternNaN binary32 w.toNat) ∧
    (isNaN32 w = false →
      isNaN64 (to64 w) = false ∧ (to64 w).getLsbD 63 = w.getLsbD 31 ∧
      patternExtended binary64 (to64 w).toNat = patternExtended binary32 w.toNat ∧ round32 (to64 w) = w) ∧
    (isNaN32 w = true → isNaN64 (to64 w) = true ∧ (to64 w).getLsbD 51 = true)

/-- O35. The comparisons are those of R10: on patterns that are no NaN, `<`, `==` and `<=` compare the values that R4 gives the patterns,
the infinities below and above every number and the two zeros equal; with a NaN each is false. `isNaN` and `isFinite` are those of the
layout. IEEE 754 as log entry 21 has it. -/
def Obligations.IeeeComparisons : Prop :=
  (∀ a : Dword, (isNaN64 a = true ↔ patternNaN binary64 a.toNat) ∧ (isFinite64 a = true ↔ patternFinite binary64 a.toNat)) ∧
  (∀ a b : Dword, isNaN64 a = true ∨ isNaN64 b = true → lt64 a b = false ∧ eq64 a b = false ∧ le64 a b = false) ∧
  (∀ a b : Dword, isNaN64 a = false → isNaN64 b = false →
    (lt64 a b = true ↔ patternExtended binary64 a.toNat < patternExtended binary64 b.toNat) ∧
    (eq64 a b = true ↔ patternExtended binary64 a.toNat = patternExtended binary64 b.toNat) ∧
    (le64 a b = true ↔ patternExtended binary64 a.toNat ≤ patternExtended binary64 b.toNat)) ∧
  eq64 0 0x8000000000000000#64 = true

/-- The coefficient registers in the order of R34. -/
def coefOrder : List CoefReg := [.a0, .a1, .a2, .b1, .b2]

/-- O36. Every NaN the block writes is a quiet NaN whose sign and payload are the next free draw, and a number is written as it is (R9): so
are a single result; the five coefficients of a coefficient write, each NaN among them with a draw of its own; a sample's input as it
enters `X1`, its output word, and that word as it enters `Y1`; and the magnitude word of EVAL and CURVE. Every quiet NaN is some
draw. The form of the draw is the model's (log entry 5). -/
def Obligations.WrittenNaNsAreQuiet : Prop :=
  (∀ (s : State) (v : Dword), isNaN64 v = true →
    s.fresh64 v = (quietNaN64 (Config.nanDraw64 s.draws), s.setDraws (s.draws + 1)) ∧ isQuietNaN64 (s.fresh64 v).1 = true) ∧
  (∀ (s : State) (v : Dword), isNaN64 v = false → s.fresh64 v = (v, s)) ∧
  (∀ (s : State) (w : Word), isNaN32 w = true →
    s.fresh32 w = (quietNaN32 (Config.nanDraw32 s.draws), s.setDraws (s.draws + 1)) ∧ isQuietNaN32 (s.fresh32 w).1 = true) ∧
  (∀ (s : State) (w : Word), isNaN32 w = false → s.fresh32 w = (w, s)) ∧
  (∀ (s : State) (c : Coefs) (k : Nat) (r : CoefReg), coefOrder[k]? = some r →
    (s.freshCoefs c).1.get r =
      ((s.setDraws (s.draws + (coefOrder.take k).countP (fun q => isNaN64 (c.get q)))).fresh64 (c.get r)).1) ∧
  (∀ (s : State) (c : Coefs),
    (s.freshCoefs c).2 = s.setDraws (s.draws + coefOrder.countP (fun q => isNaN64 (c.get q)))) ∧
  (∀ (s t : State) (ch : BitVec 8) (f res : Dword), exec (.calcCoef ch f res) s = .next t → computesCoefficients (.calcCoef ch f res) s →
    (t.kernel ch).coef = (s.freshCoefs (coefFn s.cfg.expForm f res)).1 ∧
      t.draws = (s.freshCoefs (coefFn s.cfg.expForm f res)).2.draws) ∧
  (∀ (s : State) (ch : BitVec 8) (a : Nat), ch.toNat < s.nch →
    let x := (s.memRead a).2.fresh64 (to64 (s.memRead a).1)
    let o := x.2.fresh32 (round32 (recurrence (s.kernel ch) x.1))
    let y := o.2.fresh64 (to64 o.1)
    let t := (s.sampleIn ch a).2
    (s.sampleIn ch a).1 = o.1 ∧ (t.kernel ch).x1 = x.1 ∧ (t.kernel ch).y1 = y.1 ∧ t.draws = y.2.draws) ∧
  (∀ (s : State) (c : Coefs) (rate freq m : Word) (dst : Nat), magnitude c (to64 freq) (to64 rate) = some m →
    writeMagnitude c rate freq dst s = .done ((s.fresh32 m).2.memWrite dst (s.fresh32 m).1)) ∧
  (∀ q : Dword, isQuietNaN64 q = true → ∃ d, quietNaN64 d = q) ∧
  (∀ q : Word, isQuietNaN32 q = true → ∃ d, quietNaN32 d = q)

/-- O37. The properties P2 and P3 of `SIN64`, `COS64` and `POW10_64` (R11), whatever the implementation's functions are.
The form in which they are free is the model's (log entry 4). -/
def Obligations.TranscendentalProperties : Prop :=
  sin64 0 = 0 ∧ cos64 0 = 0x3FF0000000000000#64 ∧ pow10 0 = 0x3FF0000000000000#64 ∧
  pow10 0x8000000000000000#64 = 0x3FF0000000000000#64 ∧
  (∀ x : Dword, isNaN64 x = true → isNaN64 (sin64 x) = true ∧ isNaN64 (cos64 x) = true ∧ isNaN64 (pow10 x) = true) ∧
  (∀ x : Dword, isFinite64 x = true →
    le64 minusOne (sin64 x) = true ∧ le64 (sin64 x) one = true ∧ le64 minusOne (cos64 x) = true ∧ le64 (cos64 x) one = true ∧
    isNaN64 (pow10 x) = false ∧ (pow10 x).getLsbD 63 = false)

/-! ## The coefficient calculator (40_coefficients.md) -/

/-- O38 (R130). COEF is the listing, operation by operation. -/
def Obligations.CoefFollowsListing : Prop :=
  ∀ (form : ExpForm) (f res : Dword),
    coefFn form f res =
      (let t := match form with
        | .div20 => div64 (res ^^^ 0x8000000000000000#64) 0x4034000000000000#64
        | .mul005 => mul64 0x3FA999999999999A#64 (res ^^^ 0x8000000000000000#64)
      let r := pow10 t
      let w := mul64 0x400921FB54442D18#64 f
      let s := sin64 w
      let c := cos64 w
      let k := mul64 (mul64 0x3FE0000000000000#64 r) s
      let c1 := div64 (mul64 0x3FE0000000000000#64 (sub64 0x3FF0000000000000#64 k)) (add64 0x3FF0000000000000#64 k)
      let c2 := mul64 (add64 0x3FE0000000000000#64 c1) c
      let c3 := mul64 (sub64 (add64 0x3FE0000000000000#64 c1) c2) 0x3FD0000000000000#64
      ⟨mul64 0x4000000000000000#64 c3, mul64 0x4010000000000000#64 c3, mul64 0x4000000000000000#64 c3,
        mul64 0xC000000000000000#64 c2, mul64 0x4000000000000000#64 c1⟩)

/-- O39 (R133). For every `f` and `res`: where `c3` is not a NaN, `a1 == 2.0 * a0` and `a0 == a2` hold exactly; where it is, neither
does. -/
def Obligations.CoefficientSymmetry : Prop :=
  ∀ (form : ExpForm) (f res : Dword),
    let c := coefFn form f res
    let c3 := coefC3 (pow10 (exponent form res)) (sin64 (mul64 pi64 f)) (cos64 (mul64 pi64 f))
    (isNaN64 c3 = false → eq64 c.a1 (mul64 two c.a0) = true ∧ eq64 c.a0 c.a2 = true) ∧
    (isNaN64 c3 = true → eq64 c.a1 (mul64 two c.a0) = false ∧ eq64 c.a0 c.a2 = false)

/-- O40. CALC in its domain completes (R132): the coefficients of COEF in the channel, each NaN some quiet NaN, `COEF_VALID` 1, `NCOEF` + 1; the
filter state and the cache of the channel, the other channels, the parameters and `MEM` are unchanged. -/
def Obligations.CalcWritesCoefficients : Prop :=
  ∀ (ch : BitVec 8) (f res : Dword) (s : State), s.cur = .R → ch.toNat < s.nch →
    lt64 0 f = true → le64 f one = true → isFinite64 res = true →
    ∃ t, exec (.calcCoef ch f res) s = .next t ∧ completed 5 s t ∧ keepsOthers s t ∧ kernelsExcept ch s t ∧
      writtenAs (coefFn s.cfg.expForm f res) (t.kernel ch).coef ∧
      t.kernel ch = { s.kernel ch with coef := (t.kernel ch).coef, valid := true } ∧
      t.ncoef = s.ncoef + 1 ∧ t.params = s.params ∧ t.mem = s.mem

/-- O41. RDCOEF completes where its ten words lie in `MEM` and the channel's coefficients are valid (R136): the words of A0 A1 A2 B1 B2,
low word first; no other byte and no register changes. -/
def Obligations.RdcoefCopiesCoefficients : Prop :=
  ∀ (ch : BitVec 8) (dst : Word) (s : State), ch.toNat < s.nch → dst.toNat + 10 ≤ s.cfg.memWords → (s.kernel ch).valid = true →
    ∃ t, exec (.rdcoef ch dst) s = .next t ∧ completed 2 s t ∧ keepsOthers s t ∧
      (∀ j (v : Dword), [(s.kernel ch).coef.a0, (s.kernel ch).coef.a1, (s.kernel ch).coef.a2, (s.kernel ch).coef.b1,
          (s.kernel ch).coef.b2][j]? = some v →
        memWord? t.mem (dst.toNat + 2 * j) = some (v.extractLsb' 0 32) ∧
        memWord? t.mem (dst.toNat + 2 * j + 1) = some (v.extractLsb' 32 32)) ∧
      memoryExcept dst.toNat 10 s t ∧ t.kernels = s.kernels ∧ t.ncoef = s.ncoef ∧ t.params = s.params ∧ t.draws = s.draws

/-! ## RESET (42_reset.md) -/

/-- O42 (R172). RESET on port R of a channel that exists completes: the six registers of R170 and `CP[R]`, and nothing else, are
written. -/
def Obligations.ResetClearsChannel : Prop :=
  ∀ (ch : BitVec 8) (s : State), s.cur = .R → ch.toNat < s.nch →
    ∃ t, exec (.reset ch) s = .next t ∧ completed 1 s t ∧ keepsOthers s t ∧ kernelsExcept ch s t ∧
      t.kernel ch =
        { s.kernel ch with x1 := 0, x2 := 0, y1 := 0, y2 := 0, lastF := 0xBFF0000000000000#64, lastR := 0xBFF0000000000000#64 } ∧
      t.params = s.params ∧ t.ncoef = s.ncoef ∧ t.mem = s.mem ∧ t.draws = s.draws

/-- The sentinel stands in both cache registers of a channel (R37). -/
def cacheCleared (ch : BitVec 8) (s : State) : Prop :=
  (s.kernel ch).lastF = 0xBFF0000000000000#64 ∧ (s.kernel ch).lastR = 0xBFF0000000000000#64

/-- O43 (R171). RESET clears the channel's cache; no command but a PROCESS of that channel with `n > 0` changes a cleared cache, in particular
no PROCESS with `n` = 0; and a PROCESS with `n > 0` that completes from a cleared cache recomputes the coefficients and
increments `NCOEF`, whatever the parameters are. -/
def Obligations.ResetForcesRecompute : Prop :=
  ∀ ch : BitVec 8,
    (∀ s : State, s.cur = .R → ch.toNat < s.nch → ∃ t, exec (.reset ch) s = .next t ∧ cacheCleared ch t) ∧
    (∀ (i : Instr) (s t : State), cacheCleared ch s → (∀ sil src dst n, i = .process ch sil src dst n → n = 0) →
      exec i s = .next t → cacheCleared ch t) ∧
    (∀ (sil : Bool) (src dst n : Word) (s t : State), cacheCleared ch s → 0 < n.toNat → (s.portState s.cur).err = false →
      exec (.process ch sil src dst n) s = .next t → (t.portState s.cur).err = false →
      t.ncoef = s.ncoef + 1 ∧ (t.kernel ch).valid = true ∧
        ∃ f res, preamble s.params = .ok (f, res) ∧ (t.kernel ch).lastF = f ∧ (t.kernel ch).lastR = res ∧
          writtenAs (coefFn s.cfg.expForm f res) (t.kernel ch).coef)

/-! ## PROCESS (41_process.md) -/

/-- O44 (R151). A PROCESS with `n` = 0 changes nothing but `CP[R]`, which advances by 4 (its words leave the FIFO), whatever its operands, the
parameters and the memory size are. -/
def Obligations.ZeroLengthProcess : Prop :=
  ∀ (ch : BitVec 8) (sil : Bool) (src dst : Word) (s : State), s.cur = .R → ch.toNat < s.nch →
    ∃ t, exec (.process ch sil src dst 0) s = .next t ∧ completed 4 s t ∧ keepsOthers s t ∧
      t.kernels = s.kernels ∧ t.params = s.params ∧ t.ncoef = s.ncoef ∧ t.mem = s.mem ∧ t.draws = s.draws

/-- The parameters that the preamble accepts (R152, R153). -/
def parametersAccepted (p : Params) : Prop :=
  p.cutValid = true ∧ p.resValid = true ∧ p.rateValid = true ∧ isNaN64 (to64 p.cut) = false ∧ isNaN64 (to64 p.res) = false ∧
    isFinite64 (to64 p.rate) = true ∧ lt64 0 (to64 p.rate) = true

/-- O45. The preamble on accepted parameters gives an `f` in (0, 0.99] and a `res` in [−20, 20], the values of the listing (R152); the
cutoff and the resonance within their ranges pass unchanged. -/
def Obligations.PreambleClampsIntoRange : Prop :=
  ∀ p : Params, parametersAccepted p →
    ∃ f res, preamble p = .ok (f, res) ∧ lt64 0 f = true ∧ le64 f c099 = true ∧ le64 minusTwenty res = true ∧ le64 res twenty = true ∧
      (le64 minusTwenty (to64 p.res) = true → le64 (to64 p.res) twenty = true → res = to64 p.res) ∧
      (lt64 (to64 p.res) minusTwenty = true → res = minusTwenty) ∧ (lt64 twenty (to64 p.res) = true → res = twenty) ∧
      (let q := div64 (mul64 two (if lt64 (to64 p.cut) twelve then twelve else to64 p.cut)) (to64 p.rate)
       f = if lt64 c099 q then c099 else q)

/-- O46. PROCESS with `n > 0` completes where its buffers lie in `MEM` and the parameters are accepted (R150, R154): it recomputes
exactly when `(f, res)` differs from the cache, it always filters with valid coefficients (R35) where the cache holds the sentinel until
they are (O57), and outside its channel, its `n` output words and `NCOEF` it changes nothing. -/
def Obligations.ProcessCompletes : Prop :=
  ∀ (ch : BitVec 8) (sil : Bool) (src dst n : Word) (s : State), s.cur = .R → ch.toNat < s.nch → 0 < n.toNat →
    src.toNat + n.toNat ≤ s.cfg.memWords → dst.toNat + n.toNat ≤ s.cfg.memWords → parametersAccepted s.params →
    ∃ f res t, preamble s.params = .ok (f, res) ∧ exec (.process ch sil src dst n) s = .next t ∧
      completed 4 s t ∧ keepsOthers s t ∧ kernelsExcept ch s t ∧ t.params = s.params ∧
      ((∀ k ∈ s.kernels, Kernel.cacheOk k = true) → (t.kernel ch).valid = true) ∧
      memoryExcept dst.toNat n.toNat s t ∧ (∀ i, i < n.toNat → (memWord? t.mem (dst.toNat + i)).isSome = true) ∧
      (if eq64 f (s.kernel ch).lastF && eq64 res (s.kernel ch).lastR then
        (t.kernel ch).coef = (s.kernel ch).coef ∧ (t.kernel ch).valid = (s.kernel ch).valid ∧
          (t.kernel ch).lastF = (s.kernel ch).lastF ∧ (t.kernel ch).lastR = (s.kernel ch).lastR ∧ t.ncoef = s.ncoef
      else
        writtenAs (coefFn s.cfg.expForm f res) (t.kernel ch).coef ∧ (t.kernel ch).valid = true ∧
          (t.kernel ch).lastF = f ∧ (t.kernel ch).lastR = res ∧ t.ncoef = s.ncoef + 1)

/-- The sum of the recurrence (R155), left to right, on an input in binary64. -/
def filterSum (c : Coefs) (x1 x2 y1 y2 x : Dword) : Dword :=
  sub64 (sub64 (add64 (add64 (mul64 c.a0 x) (mul64 c.a1 x1)) (mul64 c.a2 x2)) (mul64 c.b1 y1)) (mul64 c.b2 y2)

/-- One output of the recurrence (R155) from the coefficients, the filter state and an input. -/
def filterOut (c : Coefs) (x1 x2 y1 y2 : Dword) (w : Word) : Word := round32 (filterSum c x1 x2 y1 y2 (to64 w))

/-- The sample loop on a memory of words and a filter state `(X1, X2, Y1, Y2)` (R155, R156): each iteration reads `MEM[src]` (any word where
nothing is written, R72), writes `MEM[dst]`, and is whole before the next one reads. It relates the memory and the state before to
those after. -/
def filters (c : Coefs) : Nat → Nat → Nat → (Nat → Option Word) → Dword × Dword × Dword × Dword →
    (Nat → Option Word) → Dword × Dword × Dword × Dword → Prop
  | 0, _, _, m, q, m', q' => m' = m ∧ q' = q
  | n + 1, src, dst, m, (x1, x2, y1, y2), m', q' =>
    ∃ (w : Word) (x : Dword) (o : Word) (y : Dword),
      (∀ v, m src = some v → w = v) ∧ writtenAs64 (to64 w) x ∧ writtenAs32 (round32 (filterSum c x1 x2 y1 y2 x)) o ∧
      writtenAs64 (to64 o) y ∧ filters c n (src + 1) (dst + 1) (Function.update m dst (some o)) (x, x1, y, y1) m' q'

/-- The recurrence over a sequence of inputs (R155): the outputs, and the filter state it leaves. -/
def filterAll (c : Coefs) : Dword → Dword → Dword → Dword → List Word → List Word × (Dword × Dword × Dword × Dword)
  | x1, x2, y1, y2, [] => ([], (x1, x2, y1, y2))
  | x1, x2, y1, y2, w :: ws =>
    let y := filterOut c x1 x2 y1 y2 w
    let r := filterAll c (to64 w) x1 (to64 y) y1 ws
    (y :: r.1, r.2)

/-- O47. PROCESS is the recurrence of R155 run over its buffer (R155, R156). For every placement of the two buffers, overlapping ones and
unwritten words included, the memory and the filter state it leaves are those of the sample loop, each NaN written some quiet NaN. Where the
inputs are written before, and the destination is the source, lies below it, or lies clear above it: after a NaN input, or from a
NaN in `Y1`, every output and the `Y1` left are NaNs (R155); and where no input and no output is a NaN, the output words are exactly
those of the recurrence, and it leaves the recurrence's filter state. -/
def Obligations.ProcessIsTheRecurrence : Prop :=
  ∀ (ch : BitVec 8) (sil : Bool) (src dst n : Word) (s t : State),
    s.cur = .R → ch.toNat < s.nch → (s.portState .R).err = false →
    exec (.process ch sil src dst n) s = .next t → (t.portState .R).err = false →
    filters (t.kernel ch).coef n.toNat src.toNat dst.toNat (memWord? s.mem)
      ((s.kernel ch).x1, (s.kernel ch).x2, (s.kernel ch).y1, (s.kernel ch).y2) (memWord? t.mem)
      ((t.kernel ch).x1, (t.kernel ch).x2, (t.kernel ch).y1, (t.kernel ch).y2) ∧
    (∀ ins : List Word, ins.length = n.toNat → (∀ i, i < n.toNat → memWord? s.mem (src.toNat + i) = ins[i]?) →
      (dst.toNat ≤ src.toNat ∨ src.toNat + n.toNat ≤ dst.toNat) →
      (∀ i j, i ≤ j → j < n.toNat → (isNaN64 (s.kernel ch).y1 = true ∨ ∃ w, ins[i]? = some w ∧ isNaN32 w = true) →
        (∃ w, memWord? t.mem (dst.toNat + j) = some w ∧ isNaN32 w = true) ∧ isNaN64 (t.kernel ch).y1 = true) ∧
      (let r := filterAll (t.kernel ch).coef (s.kernel ch).x1 (s.kernel ch).x2 (s.kernel ch).y1 (s.kernel ch).y2 ins
       (∀ w ∈ ins, isNaN32 w = false) → (∀ w ∈ r.1, isNaN32 w = false) →
        (∀ i, i < n.toNat → memWord? t.mem (dst.toNat + i) = r.1[i]?) ∧
        ((t.kernel ch).x1, (t.kernel ch).x2, (t.kernel ch).y1, (t.kernel ch).y2) = r.2))

/-! ## EVAL and CURVE (43_response.md) -/

/-- What no CURVE changes, however it ends (R182): every word but the result words of its table, and every register. -/
def curveFrame (a n : Nat) (s t : State) : Prop :=
  (∀ y, (∀ i, i < n → y / 4 ≠ a + 2 * i + 1) → memByte? t.mem y = memByte? s.mem y) ∧
    t.kernels = s.kernels ∧ t.params = s.params ∧ t.ncoef = s.ncoef

/-- O48. However a CURVE ends, and whether or not its frequency words are written (R72), only its result words can change in `MEM`, and no
register changes (R182). A CURVE whose first `k` entries can be evaluated and whose entry `k` fails (R213): the first `k` magnitudes
are written, no other byte changes, the error is `DOMAIN` or `DEGENERATE` of that entry, and `CP` and the FIFO stay. -/
def Obligations.CurveKeepsEarlierEntries : Prop :=
  (∀ (ch : BitVec 8) (a n : Word) (s t : State), exec (.curve ch a n) s = .next t →
    keepsOthers s t ∧ curveFrame a.toNat n.toNat s t) ∧
  (∀ (ch : BitVec 8) (a n : Word) (k : Nat) (fw : Nat → Word) (s : State),
    ch.toNat < s.nch → k < n.toNat → a.toNat + 2 * n.toNat ≤ s.cfg.memWords → s.params.rateValid = true → (s.kernel ch).valid = true →
    (∀ i, i ≤ k → memWord? s.mem (a.toNat + 2 * i) = some (fw i)) →
    (∀ i, i < k → responseDomain s.params.rate (fw i) = true ∧
      magnitude (s.kernel ch).coef (to64 (fw i)) (to64 s.params.rate) ≠ none) →
    (responseDomain s.params.rate (fw k) = false ∨ magnitude (s.kernel ch).coef (to64 (fw k)) (to64 s.params.rate) = none) →
    ∃ t, exec (.curve ch a n) s = .next t ∧ keepsOthers s t ∧
      failedWith (if responseDomain s.params.rate (fw k) then .degenerate else .domain) s t ∧
      (∀ i, i < k → ∀ m, magnitude (s.kernel ch).coef (to64 (fw i)) (to64 s.params.rate) = some m →
        holdsMagnitude t (a.toNat + 2 * i + 1) m) ∧
      curveFrame a.toNat k s t)

/-- The entries of a CURVE in order, on a memory of words (R182): each reads its frequency word (any word where nothing is written, R72) and
writes its magnitude, or ends the command with its error. It relates the memory before to the memory after and the error, if any. -/
def fillsTable (c : Coefs) (rate : Word) : Nat → Nat → (Nat → Option Word) → (Nat → Option Word) → Option ErrCode → Prop
  | 0, _, m, m', e => m' = m ∧ e = none
  | n + 1, a, m, m', e =>
    ∃ w : Word, (∀ v, m a = some v → w = v) ∧
      if responseDomain rate w = true then
        match magnitude c (to64 w) (to64 rate) with
        | none => m' = m ∧ e = some .degenerate
        | some g => ∃ o, writtenAs32 g o ∧ fillsTable c rate n (a + 2) (Function.update m (a + 1) (some o)) m' e
      else m' = m ∧ e = some .domain

/-- O49. A CURVE that passes the checks before its entries runs them in order (R182), frequency words that nothing has written included
(R72): it completes, or ends with the error of the first entry that cannot be evaluated. One all of whose entries are written and can
be evaluated completes: each magnitude word holds the magnitude of its frequency word, the frequency words and every other byte
are unchanged, and no register changes. With `n` = 0 nothing but `CP` changes. -/
def Obligations.CurveFillsTable : Prop :=
  (∀ (ch : BitVec 8) (a n : Word) (s : State), ch.toNat < s.nch →
    (0 < n.toNat → a.toNat + 2 * n.toNat ≤ s.cfg.memWords ∧ s.params.rateValid = true ∧ (s.kernel ch).valid = true) →
    ∃ t e, exec (.curve ch a n) s = .next t ∧ keepsOthers s t ∧ curveFrame a.toNat n.toNat s t ∧
      fillsTable (s.kernel ch).coef s.params.rate n.toNat a.toNat (memWord? s.mem) (memWord? t.mem) e ∧
      match e with
      | none => completed 3 s t
      | some c => failedWith c s t) ∧
  (∀ (ch : BitVec 8) (a n : Word) (fw : Nat → Word) (s : State), ch.toNat < s.nch →
    (0 < n.toNat → a.toNat + 2 * n.toNat ≤ s.cfg.memWords ∧ s.params.rateValid = true ∧ (s.kernel ch).valid = true) →
    (∀ i, i < n.toNat → memWord? s.mem (a.toNat + 2 * i) = some (fw i) ∧ responseDomain s.params.rate (fw i) = true ∧
      magnitude (s.kernel ch).coef (to64 (fw i)) (to64 s.params.rate) ≠ none) →
    ∃ t, exec (.curve ch a n) s = .next t ∧ completed 3 s t ∧ keepsOthers s t ∧ curveFrame a.toNat n.toNat s t ∧
      (∀ i, i < n.toNat → ∀ m, magnitude (s.kernel ch).coef (to64 (fw i)) (to64 s.params.rate) = some m →
        holdsMagnitude t (a.toNat + 2 * i + 1) m) ∧
      (n = 0 → t.mem = s.mem ∧ t.draws = s.draws))

/-- O50. EVAL completes where `dst` lies in `MEM`, the sample rate and the coefficients are there, the inputs are in the domain and the
denominator is not zero (R181): `MEM[dst]` holds the magnitude, and nothing else changes. -/
def Obligations.EvalWritesMagnitude : Prop :=
  ∀ (ch : BitVec 8) (freq dst : Word) (m : Word) (s : State), ch.toNat < s.nch → dst.toNat + 1 ≤ s.cfg.memWords →
    s.params.rateValid = true → (s.kernel ch).valid = true → isFinite64 (to64 s.params.rate) = true → lt64 0 (to64 s.params.rate) = true →
    isFinite64 (to64 freq) = true → magnitude (s.kernel ch).coef (to64 freq) (to64 s.params.rate) = some m →
    ∃ t, exec (.eval ch freq dst) s = .next t ∧ completed 3 s t ∧ keepsOthers s t ∧ holdsMagnitude t dst.toNat m ∧
      memoryExcept dst.toNat 1 s t ∧ t.kernels = s.kernels ∧ t.params = s.params ∧ t.ncoef = s.ncoef

/-- O51. MAG is the listing, operation by operation (R180), with `DEGENERATE` where `dm == 0.0`. -/
def Obligations.MagnitudeFollowsListing : Prop :=
  ∀ (c : Coefs) (fq sr : Dword),
    magnitude c fq sr =
      (let fp := div64 (mul64 0x4000000000000000#64 fq) sr
      let w := mul64 0x400921FB54442D18#64 fp
      let zr := cos64 w
      let zi := sin64 w
      let q := sub64 (mul64 zr zr) (mul64 zi zi)
      let nr := add64 (add64 (mul64 c.a0 q) (mul64 c.a1 zr)) c.a2
      let ni := add64 (mul64 (mul64 (mul64 0x4000000000000000#64 c.a0) zr) zi) (mul64 c.a1 zi)
      let dr := add64 (add64 q (mul64 c.b1 zr)) c.b2
      let di := add64 (mul64 (mul64 0x4000000000000000#64 zr) zi) (mul64 c.b1 zi)
      let nm := sqrt64 (add64 (mul64 nr nr) (mul64 ni ni))
      let dm := sqrt64 (add64 (mul64 dr dr) (mul64 di di))
      if eq64 dm 0 then none else some (round32 (div64 nm dm)))

/-- O52. `MAG` raises `DEGENERATE` exactly when `dm` is +0.0 (R183): a zero `dm` is never −0.0. -/
def Obligations.DegenerateExactlyAtZero : Prop :=
  ∀ (c : Coefs) (fq sr : Dword),
    magnitude c fq sr = none ↔ denominatorMag c (cos64 (angle fq sr)) (sin64 (angle fq sr)) = 0x0000000000000000#64

/-- O53. Channels whose coefficient registers hold equal values give the same EVAL (R187): the states after it are equal. -/
def Obligations.EqualCoefficientsEqualResponse : Prop :=
  ∀ (c d : BitVec 8) (freq dst : Word) (s : State), c.toNat < s.nch → d.toNat < s.nch →
    (s.kernel c).coef = (s.kernel d).coef → (s.kernel c).valid = (s.kernel d).valid →
    exec (.eval c freq dst) s = exec (.eval d freq dst) s

/-! ## WRP (44_parameters.md) -/

/-- O54. WRP with `SEL` 0, 1 or 2 completes on either port (R200): the register it selects holds the value bit for bit and its flag is
1; the other parameter registers, the kernels, `NCOEF` and `MEM` are unchanged. -/
def Obligations.WrpStoresParameter : Prop :=
  ∀ (sel : BitVec 8) (value : Word) (s : State), sel.toNat ≤ 2 →
    ∃ t, exec (.wrp sel value) s = .next t ∧ completed 2 s t ∧ keepsOthers s t ∧
      t.params.cut = (if sel.toNat = 0 then value else s.params.cut) ∧
      t.params.cutValid = (if sel.toNat = 0 then true else s.params.cutValid) ∧
      t.params.res = (if sel.toNat = 1 then value else s.params.res) ∧
      t.params.resValid = (if sel.toNat = 1 then true else s.params.resValid) ∧
      t.params.rate = (if sel.toNat = 2 then value else s.params.rate) ∧
      t.params.rateValid = (if sel.toNat = 2 then true else s.params.rateValid) ∧
      t.kernels = s.kernels ∧ t.ncoef = s.ncoef ∧ t.mem = s.mem ∧ t.draws = s.draws

/-! ## Rules of the whole machine -/

/-- O55. Port D carries only commands that write no kernel register and not `NCOEF`, in every step (R38, R82, R102). -/
def Obligations.PortDReadsOnlyInvariant : Prop :=
  ∀ s t : State, s.portD.readsOnly = true → step s = .next t → t.portD.readsOnly = true

/-- What port D leaves alone: every kernel register of every channel, `NCOEF`, and all of port R. -/
def keepsAudio (s t : State) : Prop := t.kernels = s.kernels ∧ t.ncoef = s.ncoef ∧ t.portR = s.portR

/-- O56. Port D's own move changes no kernel register, not `NCOEF`, and nothing of port R, in any state in which it carries only a command
that reads (O55), whether or not port R is in the middle of a command, a coefficient write included (R38, R82): no whole command
and no first step of one, of whatever kind, no header error and no later step of a reading command does. (It may write parameter
registers, by WRP, and `MEM`, as R79 gives it.) -/
def Obligations.PortDNeverTouchesAudio : Prop :=
  ∀ s : State,
    (∀ i t, exec i (s.setCur .D) = .next t → keepsAudio s t) ∧
    (∀ i, keepsAudio s (startCommand i (s.setCur .D))) ∧
    (∀ c, keepsAudio s ((s.setCur .D).raise c)) ∧
    (∀ j, Job.readsOnly j = true → keepsAudio s (stepJob j (s.setCur .D))) ∧
    (s.portD.readsOnly = true → ∀ t,
      (s.portStep .D exec = .next t ∨ s.portStep .D (fun i u => .next (startCommand i u)) = .next t) → keepsAudio s t)

/-- O57. Until a channel's coefficients are valid its cache holds the sentinel, and no command in progress takes samples with them or reads
them, in every step (R35, R37): so no command uses a coefficient that was not written. -/
def Obligations.CacheSentinelInvariant : Prop := ∀ s t : State, s.coefficientsOk → step s = .next t → t.coefficientsOk

/-- O58. The filter state holds exact binary64 images of binary32 values, or NaNs, in every step (R36). -/
def Obligations.FilterStateImagesInvariant : Prop :=
  ∀ s t : State, (∀ k ∈ s.kernels, Kernel.imagesOk k) → step s = .next t → ∀ k ∈ t.kernels, Kernel.imagesOk k

/-- O59. No FIFO ever holds more than `FIFO_DEPTH` words, and no step changes the configuration or the number of channels (R32, R43,
R242). -/
def Obligations.FifoDepthInvariant : Prop :=
  ∀ s t : State, s.portR.fifo.length ≤ s.cfg.fifoDepth → s.portD.fifo.length ≤ s.cfg.fifoDepth → step s = .next t →
    t.portR.fifo.length ≤ t.cfg.fifoDepth ∧ t.portD.fifo.length ≤ t.cfg.fifoDepth ∧ t.cfg = s.cfg ∧ t.nch = s.nch

/-- A step that reads a coefficient: `got'` is `got` with the register `r` as the channel holds it now, and no register of the block and no
byte of `MEM` changes. -/
def readsCoefficient (ch : BitVec 8) (r : CoefReg) (got got' : Coefs) (s t : State) : Prop :=
  got'.get r = (s.kernel ch).coef.get r ∧ (∀ q, q ≠ r → got'.get q = got.get q) ∧
    t.kernels = s.kernels ∧ t.params = s.params ∧ t.ncoef = s.ncoef ∧ t.mem = s.mem ∧ t.draws = s.draws ∧
    ∀ p, p ≠ s.cur → t.portState p = s.portState p

/-- O60. A step of a coefficient write on a port writes exactly one coefficient register of its channel, one of those left, with its new
value, and the sixth step sets `COEF_VALID` and adds 1 to `NCOEF` and writes no coefficient (R82, R131). A step of `MAG`'s or RDCOEF's
coefficient reads takes exactly one of the registers left, with the value it holds at that moment, leaves the others to read, and
changes nothing of the block but how far the command has come (R81, R136, R184). -/
def Obligations.CoefficientWriteSteps : Prop :=
  (∀ (ch : BitVec 8) (p : CoefReg × Dword) (todo : List (CoefReg × Dword)) (next : AfterCoef) (s : State), ch.toNat < s.nch →
    (∃ j r v, (p :: todo)[j]? = some (r, v) ∧
      (let t := stepJob (.coefWrite ch (p :: todo) next) s
       (t.kernel ch).coef.get r = v ∧ (∀ q, q ≠ r → (t.kernel ch).coef.get q = (s.kernel ch).coef.get q) ∧
        (t.kernel ch).valid = (s.kernel ch).valid ∧ t.ncoef = s.ncoef ∧ kernelsExcept ch s t ∧
        (t.portState s.cur).job = some (.coefWrite ch ((p :: todo).eraseIdx j) next))) ∧
    (let t := stepJob (.coefWrite ch [] next) s
     (t.kernel ch).valid = true ∧ (t.kernel ch).coef = (s.kernel ch).coef ∧ t.ncoef = s.ncoef + 1 ∧ kernelsExcept ch s t)) ∧
  (∀ (ch : BitVec 8) (r₀ : CoefReg) (todo : List CoefReg) (got : Coefs) (rate freq : Word) (next : AfterMag) (s : State),
    ∃ j r got', (r₀ :: todo)[j]? = some r ∧
      (let t := stepJob (.magRead ch (r₀ :: todo) got rate freq next) s
       readsCoefficient ch r got got' s t ∧
        (t.portState s.cur) =
          { s.portState s.cur with job := some (.magRead ch ((r₀ :: todo).eraseIdx j) got' rate freq next) })) ∧
  (∀ (ch : BitVec 8) (r₀ : CoefReg) (todo : List CoefReg) (got : Coefs) (dst : Nat) (s : State),
    ∃ j r got', (r₀ :: todo)[j]? = some r ∧
      (let t := stepJob (.rdRead ch (r₀ :: todo) got dst) s
       readsCoefficient ch r got got' s t ∧
        (t.portState s.cur) = { s.portState s.cur with job := some (.rdRead ch ((r₀ :: todo).eraseIdx j) got' dst) }))
end

