-- ==== Sys2Proof/Laws/State.lean ====
section
/-! SUPPORT. One lemma per field per update of the state, and what each named operation over kernels and ports leaves: proofs use
these instead of unfolding a record update. -/

namespace Sys2Proof.Machine

variable (s : State)

/-! ## Field updates -/

@[simp] theorem State.setKernels_kernels (ks : List Kernel) : (s.setKernels ks).kernels = ks := rfl
@[simp] theorem State.setKernels_params (ks : List Kernel) : (s.setKernels ks).params = s.params := rfl
@[simp] theorem State.setKernels_portR (ks : List Kernel) : (s.setKernels ks).portR = s.portR := rfl
@[simp] theorem State.setKernels_portD (ks : List Kernel) : (s.setKernels ks).portD = s.portD := rfl
@[simp] theorem State.setKernels_ncoef (ks : List Kernel) : (s.setKernels ks).ncoef = s.ncoef := rfl
@[simp] theorem State.setKernels_mem (ks : List Kernel) : (s.setKernels ks).mem = s.mem := rfl
@[simp] theorem State.setKernels_cfg (ks : List Kernel) : (s.setKernels ks).cfg = s.cfg := rfl
@[simp] theorem State.setKernels_cur (ks : List Kernel) : (s.setKernels ks).cur = s.cur := rfl
@[simp] theorem State.setKernels_host (ks : List Kernel) : (s.setKernels ks).host = s.host := rfl
@[simp] theorem State.setKernels_returned (ks : List Kernel) : (s.setKernels ks).returned = s.returned := rfl
@[simp] theorem State.setKernels_unseen (ks : List Kernel) : (s.setKernels ks).unseen = s.unseen := rfl
@[simp] theorem State.setKernels_errorsSeen (ks : List Kernel) : (s.setKernels ks).errorsSeen = s.errorsSeen := rfl
@[simp] theorem State.setKernels_draws (ks : List Kernel) : (s.setKernels ks).draws = s.draws := rfl
@[simp] theorem State.setKernels_ticks (ks : List Kernel) : (s.setKernels ks).ticks = s.ticks := rfl
@[simp] theorem State.setKernels_portState (ks : List Kernel) (q : Port) : (s.setKernels ks).portState q = s.portState q := by cases q <;> rfl

@[simp] theorem State.setParams_kernels (p : Params) : (s.setParams p).kernels = s.kernels := rfl
@[simp] theorem State.setParams_params (p : Params) : (s.setParams p).params = p := rfl
@[simp] theorem State.setParams_portR (p : Params) : (s.setParams p).portR = s.portR := rfl
@[simp] theorem State.setParams_portD (p : Params) : (s.setParams p).portD = s.portD := rfl
@[simp] theorem State.setParams_ncoef (p : Params) : (s.setParams p).ncoef = s.ncoef := rfl
@[simp] theorem State.setParams_mem (p : Params) : (s.setParams p).mem = s.mem := rfl
@[simp] theorem State.setParams_cfg (p : Params) : (s.setParams p).cfg = s.cfg := rfl
@[simp] theorem State.setParams_cur (p : Params) : (s.setParams p).cur = s.cur := rfl
@[simp] theorem State.setParams_host (p : Params) : (s.setParams p).host = s.host := rfl
@[simp] theorem State.setParams_returned (p : Params) : (s.setParams p).returned = s.returned := rfl
@[simp] theorem State.setParams_unseen (p : Params) : (s.setParams p).unseen = s.unseen := rfl
@[simp] theorem State.setParams_errorsSeen (p : Params) : (s.setParams p).errorsSeen = s.errorsSeen := rfl
@[simp] theorem State.setParams_draws (p : Params) : (s.setParams p).draws = s.draws := rfl
@[simp] theorem State.setParams_ticks (p : Params) : (s.setParams p).ticks = s.ticks := rfl
@[simp] theorem State.setParams_portState (p : Params) (q : Port) : (s.setParams p).portState q = s.portState q := by cases q <;> rfl
@[simp] theorem State.setParams_nch (p : Params) : (s.setParams p).nch = s.nch := rfl
@[simp] theorem State.setParams_kernel (p : Params) (ch : BitVec 8) : (s.setParams p).kernel ch = s.kernel ch := rfl

@[simp] theorem State.setNcoef_kernels (n : Word) : (s.setNcoef n).kernels = s.kernels := rfl
@[simp] theorem State.setNcoef_params (n : Word) : (s.setNcoef n).params = s.params := rfl
@[simp] theorem State.setNcoef_portR (n : Word) : (s.setNcoef n).portR = s.portR := rfl
@[simp] theorem State.setNcoef_portD (n : Word) : (s.setNcoef n).portD = s.portD := rfl
@[simp] theorem State.setNcoef_ncoef (n : Word) : (s.setNcoef n).ncoef = n := rfl
@[simp] theorem State.setNcoef_mem (n : Word) : (s.setNcoef n).mem = s.mem := rfl
@[simp] theorem State.setNcoef_cfg (n : Word) : (s.setNcoef n).cfg = s.cfg := rfl
@[simp] theorem State.setNcoef_cur (n : Word) : (s.setNcoef n).cur = s.cur := rfl
@[simp] theorem State.setNcoef_host (n : Word) : (s.setNcoef n).host = s.host := rfl
@[simp] theorem State.setNcoef_returned (n : Word) : (s.setNcoef n).returned = s.returned := rfl
@[simp] theorem State.setNcoef_unseen (n : Word) : (s.setNcoef n).unseen = s.unseen := rfl
@[simp] theorem State.setNcoef_errorsSeen (n : Word) : (s.setNcoef n).errorsSeen = s.errorsSeen := rfl
@[simp] theorem State.setNcoef_draws (n : Word) : (s.setNcoef n).draws = s.draws := rfl
@[simp] theorem State.setNcoef_ticks (n : Word) : (s.setNcoef n).ticks = s.ticks := rfl
@[simp] theorem State.setNcoef_portState (n : Word) (q : Port) : (s.setNcoef n).portState q = s.portState q := by cases q <;> rfl
@[simp] theorem State.setNcoef_nch (n : Word) : (s.setNcoef n).nch = s.nch := rfl
@[simp] theorem State.setNcoef_kernel (n : Word) (ch : BitVec 8) : (s.setNcoef n).kernel ch = s.kernel ch := rfl

@[simp] theorem State.setMem_kernels (m : List Host.Cell) : (s.setMem m).kernels = s.kernels := rfl
@[simp] theorem State.setMem_params (m : List Host.Cell) : (s.setMem m).params = s.params := rfl
@[simp] theorem State.setMem_portR (m : List Host.Cell) : (s.setMem m).portR = s.portR := rfl
@[simp] theorem State.setMem_portD (m : List Host.Cell) : (s.setMem m).portD = s.portD := rfl
@[simp] theorem State.setMem_ncoef (m : List Host.Cell) : (s.setMem m).ncoef = s.ncoef := rfl
@[simp] theorem State.setMem_mem (m : List Host.Cell) : (s.setMem m).mem = m := rfl
@[simp] theorem State.setMem_cfg (m : List Host.Cell) : (s.setMem m).cfg = s.cfg := rfl
@[simp] theorem State.setMem_cur (m : List Host.Cell) : (s.setMem m).cur = s.cur := rfl
@[simp] theorem State.setMem_host (m : List Host.Cell) : (s.setMem m).host = s.host := rfl
@[simp] theorem State.setMem_returned (m : List Host.Cell) : (s.setMem m).returned = s.returned := rfl
@[simp] theorem State.setMem_unseen (m : List Host.Cell) : (s.setMem m).unseen = s.unseen := rfl
@[simp] theorem State.setMem_errorsSeen (m : List Host.Cell) : (s.setMem m).errorsSeen = s.errorsSeen := rfl
@[simp] theorem State.setMem_draws (m : List Host.Cell) : (s.setMem m).draws = s.draws := rfl
@[simp] theorem State.setMem_ticks (m : List Host.Cell) : (s.setMem m).ticks = s.ticks := rfl
@[simp] theorem State.setMem_portState (m : List Host.Cell) (q : Port) : (s.setMem m).portState q = s.portState q := by cases q <;> rfl
@[simp] theorem State.setMem_nch (m : List Host.Cell) : (s.setMem m).nch = s.nch := rfl
@[simp] theorem State.setMem_kernel (m : List Host.Cell) (ch : BitVec 8) : (s.setMem m).kernel ch = s.kernel ch := rfl

@[simp] theorem State.setCur_kernels (p : Port) : (s.setCur p).kernels = s.kernels := rfl
@[simp] theorem State.setCur_params (p : Port) : (s.setCur p).params = s.params := rfl
@[simp] theorem State.setCur_portR (p : Port) : (s.setCur p).portR = s.portR := rfl
@[simp] theorem State.setCur_portD (p : Port) : (s.setCur p).portD = s.portD := rfl
@[simp] theorem State.setCur_ncoef (p : Port) : (s.setCur p).ncoef = s.ncoef := rfl
@[simp] theorem State.setCur_mem (p : Port) : (s.setCur p).mem = s.mem := rfl
@[simp] theorem State.setCur_cfg (p : Port) : (s.setCur p).cfg = s.cfg := rfl
@[simp] theorem State.setCur_cur (p : Port) : (s.setCur p).cur = p := rfl
@[simp] theorem State.setCur_host (p : Port) : (s.setCur p).host = s.host := rfl
@[simp] theorem State.setCur_returned (p : Port) : (s.setCur p).returned = s.returned := rfl
@[simp] theorem State.setCur_unseen (p : Port) : (s.setCur p).unseen = s.unseen := rfl
@[simp] theorem State.setCur_errorsSeen (p : Port) : (s.setCur p).errorsSeen = s.errorsSeen := rfl
@[simp] theorem State.setCur_draws (p : Port) : (s.setCur p).draws = s.draws := rfl
@[simp] theorem State.setCur_ticks (p : Port) : (s.setCur p).ticks = s.ticks := rfl
@[simp] theorem State.setCur_portState (p : Port) (q : Port) : (s.setCur p).portState q = s.portState q := by cases q <;> rfl
@[simp] theorem State.setCur_nch (p : Port) : (s.setCur p).nch = s.nch := rfl
@[simp] theorem State.setCur_kernel (p : Port) (ch : BitVec 8) : (s.setCur p).kernel ch = s.kernel ch := rfl

@[simp] theorem State.setHost_kernels (h : List HostMove) : (s.setHost h).kernels = s.kernels := rfl
@[simp] theorem State.setHost_params (h : List HostMove) : (s.setHost h).params = s.params := rfl
@[simp] theorem State.setHost_portR (h : List HostMove) : (s.setHost h).portR = s.portR := rfl
@[simp] theorem State.setHost_portD (h : List HostMove) : (s.setHost h).portD = s.portD := rfl
@[simp] theorem State.setHost_ncoef (h : List HostMove) : (s.setHost h).ncoef = s.ncoef := rfl
@[simp] theorem State.setHost_mem (h : List HostMove) : (s.setHost h).mem = s.mem := rfl
@[simp] theorem State.setHost_cfg (h : List HostMove) : (s.setHost h).cfg = s.cfg := rfl
@[simp] theorem State.setHost_cur (h : List HostMove) : (s.setHost h).cur = s.cur := rfl
@[simp] theorem State.setHost_host (h : List HostMove) : (s.setHost h).host = h := rfl
@[simp] theorem State.setHost_returned (h : List HostMove) : (s.setHost h).returned = s.returned := rfl
@[simp] theorem State.setHost_unseen (h : List HostMove) : (s.setHost h).unseen = s.unseen := rfl
@[simp] theorem State.setHost_errorsSeen (h : List HostMove) : (s.setHost h).errorsSeen = s.errorsSeen := rfl
@[simp] theorem State.setHost_draws (h : List HostMove) : (s.setHost h).draws = s.draws := rfl
@[simp] theorem State.setHost_ticks (h : List HostMove) : (s.setHost h).ticks = s.ticks := rfl
@[simp] theorem State.setHost_portState (h : List HostMove) (q : Port) : (s.setHost h).portState q = s.portState q := by cases q <;> rfl
@[simp] theorem State.setHost_nch (h : List HostMove) : (s.setHost h).nch = s.nch := rfl
@[simp] theorem State.setHost_kernel (h : List HostMove) (ch : BitVec 8) : (s.setHost h).kernel ch = s.kernel ch := rfl

@[simp] theorem State.setReturned_kernels (r : List Word) : (s.setReturned r).kernels = s.kernels := rfl
@[simp] theorem State.setReturned_params (r : List Word) : (s.setReturned r).params = s.params := rfl
@[simp] theorem State.setReturned_portR (r : List Word) : (s.setReturned r).portR = s.portR := rfl
@[simp] theorem State.setReturned_portD (r : List Word) : (s.setReturned r).portD = s.portD := rfl
@[simp] theorem State.setReturned_ncoef (r : List Word) : (s.setReturned r).ncoef = s.ncoef := rfl
@[simp] theorem State.setReturned_mem (r : List Word) : (s.setReturned r).mem = s.mem := rfl
@[simp] theorem State.setReturned_cfg (r : List Word) : (s.setReturned r).cfg = s.cfg := rfl
@[simp] theorem State.setReturned_cur (r : List Word) : (s.setReturned r).cur = s.cur := rfl
@[simp] theorem State.setReturned_host (r : List Word) : (s.setReturned r).host = s.host := rfl
@[simp] theorem State.setReturned_returned (r : List Word) : (s.setReturned r).returned = r := rfl
@[simp] theorem State.setReturned_unseen (r : List Word) : (s.setReturned r).unseen = s.unseen := rfl
@[simp] theorem State.setReturned_errorsSeen (r : List Word) : (s.setReturned r).errorsSeen = s.errorsSeen := rfl
@[simp] theorem State.setReturned_draws (r : List Word) : (s.setReturned r).draws = s.draws := rfl
@[simp] theorem State.setReturned_ticks (r : List Word) : (s.setReturned r).ticks = s.ticks := rfl
@[simp] theorem State.setReturned_portState (r : List Word) (q : Port) : (s.setReturned r).portState q = s.portState q := by cases q <;> rfl
@[simp] theorem State.setReturned_nch (r : List Word) : (s.setReturned r).nch = s.nch := rfl
@[simp] theorem State.setReturned_kernel (r : List Word) (ch : BitVec 8) : (s.setReturned r).kernel ch = s.kernel ch := rfl

@[simp] theorem State.setUnseen_kernels (u : List (Port × Instr)) : (s.setUnseen u).kernels = s.kernels := rfl
@[simp] theorem State.setUnseen_params (u : List (Port × Instr)) : (s.setUnseen u).params = s.params := rfl
@[simp] theorem State.setUnseen_portR (u : List (Port × Instr)) : (s.setUnseen u).portR = s.portR := rfl
@[simp] theorem State.setUnseen_portD (u : List (Port × Instr)) : (s.setUnseen u).portD = s.portD := rfl
@[simp] theorem State.setUnseen_ncoef (u : List (Port × Instr)) : (s.setUnseen u).ncoef = s.ncoef := rfl
@[simp] theorem State.setUnseen_mem (u : List (Port × Instr)) : (s.setUnseen u).mem = s.mem := rfl
@[simp] theorem State.setUnseen_cfg (u : List (Port × Instr)) : (s.setUnseen u).cfg = s.cfg := rfl
@[simp] theorem State.setUnseen_cur (u : List (Port × Instr)) : (s.setUnseen u).cur = s.cur := rfl
@[simp] theorem State.setUnseen_host (u : List (Port × Instr)) : (s.setUnseen u).host = s.host := rfl
@[simp] theorem State.setUnseen_returned (u : List (Port × Instr)) : (s.setUnseen u).returned = s.returned := rfl
@[simp] theorem State.setUnseen_unseen (u : List (Port × Instr)) : (s.setUnseen u).unseen = u := rfl
@[simp] theorem State.setUnseen_errorsSeen (u : List (Port × Instr)) : (s.setUnseen u).errorsSeen = s.errorsSeen := rfl
@[simp] theorem State.setUnseen_draws (u : List (Port × Instr)) : (s.setUnseen u).draws = s.draws := rfl
@[simp] theorem State.setUnseen_ticks (u : List (Port × Instr)) : (s.setUnseen u).ticks = s.ticks := rfl
@[simp] theorem State.setUnseen_portState (u : List (Port × Instr)) (q : Port) : (s.setUnseen u).portState q = s.portState q := by cases q <;> rfl
@[simp] theorem State.setUnseen_nch (u : List (Port × Instr)) : (s.setUnseen u).nch = s.nch := rfl
@[simp] theorem State.setUnseen_kernel (u : List (Port × Instr)) (ch : BitVec 8) : (s.setUnseen u).kernel ch = s.kernel ch := rfl

@[simp] theorem State.setErrorsSeen_kernels (l : List Port) : (s.setErrorsSeen l).kernels = s.kernels := rfl
@[simp] theorem State.setErrorsSeen_params (l : List Port) : (s.setErrorsSeen l).params = s.params := rfl
@[simp] theorem State.setErrorsSeen_portR (l : List Port) : (s.setErrorsSeen l).portR = s.portR := rfl
@[simp] theorem State.setErrorsSeen_portD (l : List Port) : (s.setErrorsSeen l).portD = s.portD := rfl
@[simp] theorem State.setErrorsSeen_ncoef (l : List Port) : (s.setErrorsSeen l).ncoef = s.ncoef := rfl
@[simp] theorem State.setErrorsSeen_mem (l : List Port) : (s.setErrorsSeen l).mem = s.mem := rfl
@[simp] theorem State.setErrorsSeen_cfg (l : List Port) : (s.setErrorsSeen l).cfg = s.cfg := rfl
@[simp] theorem State.setErrorsSeen_cur (l : List Port) : (s.setErrorsSeen l).cur = s.cur := rfl
@[simp] theorem State.setErrorsSeen_host (l : List Port) : (s.setErrorsSeen l).host = s.host := rfl
@[simp] theorem State.setErrorsSeen_returned (l : List Port) : (s.setErrorsSeen l).returned = s.returned := rfl
@[simp] theorem State.setErrorsSeen_unseen (l : List Port) : (s.setErrorsSeen l).unseen = s.unseen := rfl
@[simp] theorem State.setErrorsSeen_errorsSeen (l : List Port) : (s.setErrorsSeen l).errorsSeen = l := rfl
@[simp] theorem State.setErrorsSeen_draws (l : List Port) : (s.setErrorsSeen l).draws = s.draws := rfl
@[simp] theorem State.setErrorsSeen_ticks (l : List Port) : (s.setErrorsSeen l).ticks = s.ticks := rfl
@[simp] theorem State.setErrorsSeen_portState (l : List Port) (q : Port) : (s.setErrorsSeen l).portState q = s.portState q := by cases q <;> rfl
@[simp] theorem State.setErrorsSeen_nch (l : List Port) : (s.setErrorsSeen l).nch = s.nch := rfl
@[simp] theorem State.setErrorsSeen_kernel (l : List Port) (ch : BitVec 8) : (s.setErrorsSeen l).kernel ch = s.kernel ch := rfl

@[simp] theorem State.setDraws_kernels (n : Nat) : (s.setDraws n).kernels = s.kernels := rfl
@[simp] theorem State.setDraws_params (n : Nat) : (s.setDraws n).params = s.params := rfl
@[simp] theorem State.setDraws_portR (n : Nat) : (s.setDraws n).portR = s.portR := rfl
@[simp] theorem State.setDraws_portD (n : Nat) : (s.setDraws n).portD = s.portD := rfl
@[simp] theorem State.setDraws_ncoef (n : Nat) : (s.setDraws n).ncoef = s.ncoef := rfl
@[simp] theorem State.setDraws_mem (n : Nat) : (s.setDraws n).mem = s.mem := rfl
@[simp] theorem State.setDraws_cfg (n : Nat) : (s.setDraws n).cfg = s.cfg := rfl
@[simp] theorem State.setDraws_cur (n : Nat) : (s.setDraws n).cur = s.cur := rfl
@[simp] theorem State.setDraws_host (n : Nat) : (s.setDraws n).host = s.host := rfl
@[simp] theorem State.setDraws_returned (n : Nat) : (s.setDraws n).returned = s.returned := rfl
@[simp] theorem State.setDraws_unseen (n : Nat) : (s.setDraws n).unseen = s.unseen := rfl
@[simp] theorem State.setDraws_errorsSeen (n : Nat) : (s.setDraws n).errorsSeen = s.errorsSeen := rfl
@[simp] theorem State.setDraws_draws (n : Nat) : (s.setDraws n).draws = n := rfl
@[simp] theorem State.setDraws_ticks (n : Nat) : (s.setDraws n).ticks = s.ticks := rfl
@[simp] theorem State.setDraws_portState (n : Nat) (q : Port) : (s.setDraws n).portState q = s.portState q := by cases q <;> rfl
@[simp] theorem State.setDraws_nch (n : Nat) : (s.setDraws n).nch = s.nch := rfl
@[simp] theorem State.setDraws_kernel (n : Nat) (ch : BitVec 8) : (s.setDraws n).kernel ch = s.kernel ch := rfl

@[simp] theorem State.setTicks_kernels (n : Nat) : (s.setTicks n).kernels = s.kernels := rfl
@[simp] theorem State.setTicks_params (n : Nat) : (s.setTicks n).params = s.params := rfl
@[simp] theorem State.setTicks_portR (n : Nat) : (s.setTicks n).portR = s.portR := rfl
@[simp] theorem State.setTicks_portD (n : Nat) : (s.setTicks n).portD = s.portD := rfl
@[simp] theorem State.setTicks_ncoef (n : Nat) : (s.setTicks n).ncoef = s.ncoef := rfl
@[simp] theorem State.setTicks_mem (n : Nat) : (s.setTicks n).mem = s.mem := rfl
@[simp] theorem State.setTicks_cfg (n : Nat) : (s.setTicks n).cfg = s.cfg := rfl
@[simp] theorem State.setTicks_cur (n : Nat) : (s.setTicks n).cur = s.cur := rfl
@[simp] theorem State.setTicks_host (n : Nat) : (s.setTicks n).host = s.host := rfl
@[simp] theorem State.setTicks_returned (n : Nat) : (s.setTicks n).returned = s.returned := rfl
@[simp] theorem State.setTicks_unseen (n : Nat) : (s.setTicks n).unseen = s.unseen := rfl
@[simp] theorem State.setTicks_errorsSeen (n : Nat) : (s.setTicks n).errorsSeen = s.errorsSeen := rfl
@[simp] theorem State.setTicks_draws (n : Nat) : (s.setTicks n).draws = s.draws := rfl
@[simp] theorem State.setTicks_ticks (n : Nat) : (s.setTicks n).ticks = n := rfl
@[simp] theorem State.setTicks_portState (n : Nat) (q : Port) : (s.setTicks n).portState q = s.portState q := by cases q <;> rfl
@[simp] theorem State.setTicks_nch (n : Nat) : (s.setTicks n).nch = s.nch := rfl
@[simp] theorem State.setTicks_kernel (n : Nat) (ch : BitVec 8) : (s.setTicks n).kernel ch = s.kernel ch := rfl

@[simp] theorem State.setPort_kernels (p : Port) (ps : PortState) : (s.setPort p ps).kernels = s.kernels := by cases p <;> rfl
@[simp] theorem State.setPort_params (p : Port) (ps : PortState) : (s.setPort p ps).params = s.params := by cases p <;> rfl
@[simp] theorem State.setPort_ncoef (p : Port) (ps : PortState) : (s.setPort p ps).ncoef = s.ncoef := by cases p <;> rfl
@[simp] theorem State.setPort_mem (p : Port) (ps : PortState) : (s.setPort p ps).mem = s.mem := by cases p <;> rfl
@[simp] theorem State.setPort_cfg (p : Port) (ps : PortState) : (s.setPort p ps).cfg = s.cfg := by cases p <;> rfl
@[simp] theorem State.setPort_cur (p : Port) (ps : PortState) : (s.setPort p ps).cur = s.cur := by cases p <;> rfl
@[simp] theorem State.setPort_host (p : Port) (ps : PortState) : (s.setPort p ps).host = s.host := by cases p <;> rfl
@[simp] theorem State.setPort_returned (p : Port) (ps : PortState) : (s.setPort p ps).returned = s.returned := by cases p <;> rfl
@[simp] theorem State.setPort_unseen (p : Port) (ps : PortState) : (s.setPort p ps).unseen = s.unseen := by cases p <;> rfl
@[simp] theorem State.setPort_errorsSeen (p : Port) (ps : PortState) : (s.setPort p ps).errorsSeen = s.errorsSeen := by cases p <;> rfl
@[simp] theorem State.setPort_draws (p : Port) (ps : PortState) : (s.setPort p ps).draws = s.draws := by cases p <;> rfl
@[simp] theorem State.setPort_ticks (p : Port) (ps : PortState) : (s.setPort p ps).ticks = s.ticks := by cases p <;> rfl
@[simp] theorem State.setPort_nch (p : Port) (ps : PortState) : (s.setPort p ps).nch = s.nch := by cases p <;> rfl
@[simp] theorem State.setPort_kernel (p : Port) (ps : PortState) (ch : BitVec 8) : (s.setPort p ps).kernel ch = s.kernel ch := by
  cases p <;> rfl
@[simp] theorem State.portState_setPort_same (p : Port) (ps : PortState) : (s.setPort p ps).portState p = ps := by cases p <;> rfl
theorem State.portState_setPort_ne (p q : Port) (ps : PortState) (h : q ≠ p) : (s.setPort p ps).portState q = s.portState q := by
  cases p <;> cases q <;> first | rfl | exact absurd rfl h

/-! ## Operations built on them -/

@[simp] theorem State.setKernel_params (ch : BitVec 8) (k : Kernel) : (s.setKernel ch k).params = s.params := rfl
@[simp] theorem State.setKernel_portR (ch : BitVec 8) (k : Kernel) : (s.setKernel ch k).portR = s.portR := rfl
@[simp] theorem State.setKernel_portD (ch : BitVec 8) (k : Kernel) : (s.setKernel ch k).portD = s.portD := rfl
@[simp] theorem State.setKernel_ncoef (ch : BitVec 8) (k : Kernel) : (s.setKernel ch k).ncoef = s.ncoef := rfl
@[simp] theorem State.setKernel_mem (ch : BitVec 8) (k : Kernel) : (s.setKernel ch k).mem = s.mem := rfl
@[simp] theorem State.setKernel_cfg (ch : BitVec 8) (k : Kernel) : (s.setKernel ch k).cfg = s.cfg := rfl
@[simp] theorem State.setKernel_cur (ch : BitVec 8) (k : Kernel) : (s.setKernel ch k).cur = s.cur := rfl
@[simp] theorem State.setKernel_host (ch : BitVec 8) (k : Kernel) : (s.setKernel ch k).host = s.host := rfl
@[simp] theorem State.setKernel_returned (ch : BitVec 8) (k : Kernel) : (s.setKernel ch k).returned = s.returned := rfl
@[simp] theorem State.setKernel_unseen (ch : BitVec 8) (k : Kernel) : (s.setKernel ch k).unseen = s.unseen := rfl
@[simp] theorem State.setKernel_errorsSeen (ch : BitVec 8) (k : Kernel) : (s.setKernel ch k).errorsSeen = s.errorsSeen := rfl
@[simp] theorem State.setKernel_draws (ch : BitVec 8) (k : Kernel) : (s.setKernel ch k).draws = s.draws := rfl
@[simp] theorem State.setKernel_ticks (ch : BitVec 8) (k : Kernel) : (s.setKernel ch k).ticks = s.ticks := rfl
@[simp] theorem State.setKernel_portState (ch : BitVec 8) (k : Kernel) (q : Port) : (s.setKernel ch k).portState q = s.portState q := by cases q <;> rfl
@[simp] theorem State.setKernel_nch (ch : BitVec 8) (k : Kernel) : (s.setKernel ch k).nch = s.nch := by simp [State.setKernel, State.nch, State.setKernel]

@[simp] theorem State.writeCoefReg_params (ch : BitVec 8) (r : CoefReg) (v : Dword) : (s.writeCoefReg ch r v).params = s.params := rfl
@[simp] theorem State.writeCoefReg_portR (ch : BitVec 8) (r : CoefReg) (v : Dword) : (s.writeCoefReg ch r v).portR = s.portR := rfl
@[simp] theorem State.writeCoefReg_portD (ch : BitVec 8) (r : CoefReg) (v : Dword) : (s.writeCoefReg ch r v).portD = s.portD := rfl
@[simp] theorem State.writeCoefReg_ncoef (ch : BitVec 8) (r : CoefReg) (v : Dword) : (s.writeCoefReg ch r v).ncoef = s.ncoef := rfl
@[simp] theorem State.writeCoefReg_mem (ch : BitVec 8) (r : CoefReg) (v : Dword) : (s.writeCoefReg ch r v).mem = s.mem := rfl
@[simp] theorem State.writeCoefReg_cfg (ch : BitVec 8) (r : CoefReg) (v : Dword) : (s.writeCoefReg ch r v).cfg = s.cfg := rfl
@[simp] theorem State.writeCoefReg_cur (ch : BitVec 8) (r : CoefReg) (v : Dword) : (s.writeCoefReg ch r v).cur = s.cur := rfl
@[simp] theorem State.writeCoefReg_host (ch : BitVec 8) (r : CoefReg) (v : Dword) : (s.writeCoefReg ch r v).host = s.host := rfl
@[simp] theorem State.writeCoefReg_returned (ch : BitVec 8) (r : CoefReg) (v : Dword) : (s.writeCoefReg ch r v).returned = s.returned := rfl
@[simp] theorem State.writeCoefReg_unseen (ch : BitVec 8) (r : CoefReg) (v : Dword) : (s.writeCoefReg ch r v).unseen = s.unseen := rfl
@[simp] theorem State.writeCoefReg_errorsSeen (ch : BitVec 8) (r : CoefReg) (v : Dword) : (s.writeCoefReg ch r v).errorsSeen = s.errorsSeen := rfl
@[simp] theorem State.writeCoefReg_draws (ch : BitVec 8) (r : CoefReg) (v : Dword) : (s.writeCoefReg ch r v).draws = s.draws := rfl
@[simp] theorem State.writeCoefReg_ticks (ch : BitVec 8) (r : CoefReg) (v : Dword) : (s.writeCoefReg ch r v).ticks = s.ticks := rfl
@[simp] theorem State.writeCoefReg_portState (ch : BitVec 8) (r : CoefReg) (v : Dword) (q : Port) : (s.writeCoefReg ch r v).portState q = s.portState q := by cases q <;> rfl
@[simp] theorem State.writeCoefReg_nch (ch : BitVec 8) (r : CoefReg) (v : Dword) : (s.writeCoefReg ch r v).nch = s.nch := by simp [State.writeCoefReg, State.nch, State.setKernel]

@[simp] theorem State.validateCoef_params (ch : BitVec 8) : (s.validateCoef ch).params = s.params := rfl
@[simp] theorem State.validateCoef_portR (ch : BitVec 8) : (s.validateCoef ch).portR = s.portR := rfl
@[simp] theorem State.validateCoef_portD (ch : BitVec 8) : (s.validateCoef ch).portD = s.portD := rfl
@[simp] theorem State.validateCoef_mem (ch : BitVec 8) : (s.validateCoef ch).mem = s.mem := rfl
@[simp] theorem State.validateCoef_cfg (ch : BitVec 8) : (s.validateCoef ch).cfg = s.cfg := rfl
@[simp] theorem State.validateCoef_cur (ch : BitVec 8) : (s.validateCoef ch).cur = s.cur := rfl
@[simp] theorem State.validateCoef_host (ch : BitVec 8) : (s.validateCoef ch).host = s.host := rfl
@[simp] theorem State.validateCoef_returned (ch : BitVec 8) : (s.validateCoef ch).returned = s.returned := rfl
@[simp] theorem State.validateCoef_unseen (ch : BitVec 8) : (s.validateCoef ch).unseen = s.unseen := rfl
@[simp] theorem State.validateCoef_errorsSeen (ch : BitVec 8) : (s.validateCoef ch).errorsSeen = s.errorsSeen := rfl
@[simp] theorem State.validateCoef_draws (ch : BitVec 8) : (s.validateCoef ch).draws = s.draws := rfl
@[simp] theorem State.validateCoef_ticks (ch : BitVec 8) : (s.validateCoef ch).ticks = s.ticks := rfl
@[simp] theorem State.validateCoef_portState (ch : BitVec 8) (q : Port) : (s.validateCoef ch).portState q = s.portState q := by cases q <;> rfl
@[simp] theorem State.validateCoef_nch (ch : BitVec 8) : (s.validateCoef ch).nch = s.nch := by simp [State.validateCoef, State.nch, State.setKernel]

@[simp] theorem State.writeCache_params (ch : BitVec 8) (f r : Dword) : (s.writeCache ch f r).params = s.params := rfl
@[simp] theorem State.writeCache_portR (ch : BitVec 8) (f r : Dword) : (s.writeCache ch f r).portR = s.portR := rfl
@[simp] theorem State.writeCache_portD (ch : BitVec 8) (f r : Dword) : (s.writeCache ch f r).portD = s.portD := rfl
@[simp] theorem State.writeCache_ncoef (ch : BitVec 8) (f r : Dword) : (s.writeCache ch f r).ncoef = s.ncoef := rfl
@[simp] theorem State.writeCache_mem (ch : BitVec 8) (f r : Dword) : (s.writeCache ch f r).mem = s.mem := rfl
@[simp] theorem State.writeCache_cfg (ch : BitVec 8) (f r : Dword) : (s.writeCache ch f r).cfg = s.cfg := rfl
@[simp] theorem State.writeCache_cur (ch : BitVec 8) (f r : Dword) : (s.writeCache ch f r).cur = s.cur := rfl
@[simp] theorem State.writeCache_host (ch : BitVec 8) (f r : Dword) : (s.writeCache ch f r).host = s.host := rfl
@[simp] theorem State.writeCache_returned (ch : BitVec 8) (f r : Dword) : (s.writeCache ch f r).returned = s.returned := rfl
@[simp] theorem State.writeCache_unseen (ch : BitVec 8) (f r : Dword) : (s.writeCache ch f r).unseen = s.unseen := rfl
@[simp] theorem State.writeCache_errorsSeen (ch : BitVec 8) (f r : Dword) : (s.writeCache ch f r).errorsSeen = s.errorsSeen := rfl
@[simp] theorem State.writeCache_draws (ch : BitVec 8) (f r : Dword) : (s.writeCache ch f r).draws = s.draws := rfl
@[simp] theorem State.writeCache_ticks (ch : BitVec 8) (f r : Dword) : (s.writeCache ch f r).ticks = s.ticks := rfl
@[simp] theorem State.writeCache_portState (ch : BitVec 8) (f r : Dword) (q : Port) : (s.writeCache ch f r).portState q = s.portState q := by cases q <;> rfl
@[simp] theorem State.writeCache_nch (ch : BitVec 8) (f r : Dword) : (s.writeCache ch f r).nch = s.nch := by simp [State.writeCache, State.nch, State.setKernel]

@[simp] theorem State.writeCoefRegs_params (ch : BitVec 8) (c : Coefs) : (s.writeCoefRegs ch c).params = s.params := rfl
@[simp] theorem State.writeCoefRegs_portR (ch : BitVec 8) (c : Coefs) : (s.writeCoefRegs ch c).portR = s.portR := rfl
@[simp] theorem State.writeCoefRegs_portD (ch : BitVec 8) (c : Coefs) : (s.writeCoefRegs ch c).portD = s.portD := rfl
@[simp] theorem State.writeCoefRegs_ncoef (ch : BitVec 8) (c : Coefs) : (s.writeCoefRegs ch c).ncoef = s.ncoef := rfl
@[simp] theorem State.writeCoefRegs_mem (ch : BitVec 8) (c : Coefs) : (s.writeCoefRegs ch c).mem = s.mem := rfl
@[simp] theorem State.writeCoefRegs_cfg (ch : BitVec 8) (c : Coefs) : (s.writeCoefRegs ch c).cfg = s.cfg := rfl
@[simp] theorem State.writeCoefRegs_cur (ch : BitVec 8) (c : Coefs) : (s.writeCoefRegs ch c).cur = s.cur := rfl
@[simp] theorem State.writeCoefRegs_host (ch : BitVec 8) (c : Coefs) : (s.writeCoefRegs ch c).host = s.host := rfl
@[simp] theorem State.writeCoefRegs_returned (ch : BitVec 8) (c : Coefs) : (s.writeCoefRegs ch c).returned = s.returned := rfl
@[simp] theorem State.writeCoefRegs_unseen (ch : BitVec 8) (c : Coefs) : (s.writeCoefRegs ch c).unseen = s.unseen := rfl
@[simp] theorem State.writeCoefRegs_errorsSeen (ch : BitVec 8) (c : Coefs) : (s.writeCoefRegs ch c).errorsSeen = s.errorsSeen := rfl
@[simp] theorem State.writeCoefRegs_draws (ch : BitVec 8) (c : Coefs) : (s.writeCoefRegs ch c).draws = s.draws := rfl
@[simp] theorem State.writeCoefRegs_ticks (ch : BitVec 8) (c : Coefs) : (s.writeCoefRegs ch c).ticks = s.ticks := rfl
@[simp] theorem State.writeCoefRegs_portState (ch : BitVec 8) (c : Coefs) (q : Port) : (s.writeCoefRegs ch c).portState q = s.portState q := by cases q <;> rfl
@[simp] theorem State.writeCoefRegs_nch (ch : BitVec 8) (c : Coefs) : (s.writeCoefRegs ch c).nch = s.nch := by simp [State.writeCoefRegs, State.nch, State.setKernel, State.writeCoefReg]

@[simp] theorem State.memWrite_kernels (a : Nat) (w : Word) : (s.memWrite a w).kernels = s.kernels := rfl
@[simp] theorem State.memWrite_params (a : Nat) (w : Word) : (s.memWrite a w).params = s.params := rfl
@[simp] theorem State.memWrite_portR (a : Nat) (w : Word) : (s.memWrite a w).portR = s.portR := rfl
@[simp] theorem State.memWrite_portD (a : Nat) (w : Word) : (s.memWrite a w).portD = s.portD := rfl
@[simp] theorem State.memWrite_ncoef (a : Nat) (w : Word) : (s.memWrite a w).ncoef = s.ncoef := rfl
@[simp] theorem State.memWrite_cfg (a : Nat) (w : Word) : (s.memWrite a w).cfg = s.cfg := rfl
@[simp] theorem State.memWrite_cur (a : Nat) (w : Word) : (s.memWrite a w).cur = s.cur := rfl
@[simp] theorem State.memWrite_host (a : Nat) (w : Word) : (s.memWrite a w).host = s.host := rfl
@[simp] theorem State.memWrite_returned (a : Nat) (w : Word) : (s.memWrite a w).returned = s.returned := rfl
@[simp] theorem State.memWrite_unseen (a : Nat) (w : Word) : (s.memWrite a w).unseen = s.unseen := rfl
@[simp] theorem State.memWrite_errorsSeen (a : Nat) (w : Word) : (s.memWrite a w).errorsSeen = s.errorsSeen := rfl
@[simp] theorem State.memWrite_draws (a : Nat) (w : Word) : (s.memWrite a w).draws = s.draws := rfl
@[simp] theorem State.memWrite_ticks (a : Nat) (w : Word) : (s.memWrite a w).ticks = s.ticks := rfl
@[simp] theorem State.memWrite_portState (a : Nat) (w : Word) (q : Port) : (s.memWrite a w).portState q = s.portState q := by cases q <;> rfl
@[simp] theorem State.memWrite_kernel (a : Nat) (w : Word) (ch : BitVec 8) : (s.memWrite a w).kernel ch = s.kernel ch := rfl
@[simp] theorem State.memWrite_nch (a : Nat) (w : Word) : (s.memWrite a w).nch = s.nch := rfl

@[simp] theorem State.complete_kernels (len : Nat) : (s.complete len).kernels = s.kernels := by simp [State.complete]
@[simp] theorem State.complete_params (len : Nat) : (s.complete len).params = s.params := by simp [State.complete]
@[simp] theorem State.complete_ncoef (len : Nat) : (s.complete len).ncoef = s.ncoef := by simp [State.complete]
@[simp] theorem State.complete_mem (len : Nat) : (s.complete len).mem = s.mem := by simp [State.complete]
@[simp] theorem State.complete_cfg (len : Nat) : (s.complete len).cfg = s.cfg := by simp [State.complete]
@[simp] theorem State.complete_cur (len : Nat) : (s.complete len).cur = s.cur := by simp [State.complete]
@[simp] theorem State.complete_host (len : Nat) : (s.complete len).host = s.host := by simp [State.complete]
@[simp] theorem State.complete_returned (len : Nat) : (s.complete len).returned = s.returned := by simp [State.complete]
@[simp] theorem State.complete_unseen (len : Nat) :
    (s.complete len).unseen = s.unseen ++ (headCommand (s.portState s.cur).fifo).toList.map (s.cur, ·) := by simp [State.complete]
@[simp] theorem State.complete_errorsSeen (len : Nat) : (s.complete len).errorsSeen = s.errorsSeen := by simp [State.complete]
@[simp] theorem State.complete_draws (len : Nat) : (s.complete len).draws = s.draws := by simp [State.complete]
@[simp] theorem State.complete_ticks (len : Nat) : (s.complete len).ticks = s.ticks := by simp [State.complete]
@[simp] theorem State.complete_kernel (len : Nat) (x : BitVec 8) : (s.complete len).kernel x = s.kernel x := by simp [State.complete]
@[simp] theorem State.complete_nch (len : Nat) : (s.complete len).nch = s.nch := by simp [State.complete]

@[simp] theorem State.raise_kernels (c : ErrCode) : (s.raise c).kernels = s.kernels := by simp [State.raise]
@[simp] theorem State.raise_params (c : ErrCode) : (s.raise c).params = s.params := by simp [State.raise]
@[simp] theorem State.raise_ncoef (c : ErrCode) : (s.raise c).ncoef = s.ncoef := by simp [State.raise]
@[simp] theorem State.raise_mem (c : ErrCode) : (s.raise c).mem = s.mem := by simp [State.raise]
@[simp] theorem State.raise_cfg (c : ErrCode) : (s.raise c).cfg = s.cfg := by simp [State.raise]
@[simp] theorem State.raise_cur (c : ErrCode) : (s.raise c).cur = s.cur := by simp [State.raise]
@[simp] theorem State.raise_host (c : ErrCode) : (s.raise c).host = s.host := by simp [State.raise]
@[simp] theorem State.raise_returned (c : ErrCode) : (s.raise c).returned = s.returned := by simp [State.raise]
@[simp] theorem State.raise_unseen (c : ErrCode) : (s.raise c).unseen = s.unseen := by simp [State.raise]
@[simp] theorem State.raise_errorsSeen (c : ErrCode) : (s.raise c).errorsSeen = s.errorsSeen := by simp [State.raise]
@[simp] theorem State.raise_draws (c : ErrCode) : (s.raise c).draws = s.draws := by simp [State.raise]
@[simp] theorem State.raise_ticks (c : ErrCode) : (s.raise c).ticks = s.ticks := by simp [State.raise]
@[simp] theorem State.raise_kernel (c : ErrCode) (x : BitVec 8) : (s.raise c).kernel x = s.kernel x := by simp [State.raise]
@[simp] theorem State.raise_nch (c : ErrCode) : (s.raise c).nch = s.nch := by simp [State.raise]

/-- The kernel just written is the one read, for a channel that exists (R106). -/
theorem State.kernel_setKernel_same (ch : BitVec 8) (k : Kernel) (h : ch.toNat < s.nch) : (s.setKernel ch k).kernel ch = k := by
  simp only [State.nch] at h
  simp [State.kernel, State.setKernel, h]

/-- The other channels are untouched (R33). -/
theorem State.kernel_setKernel_ne (ch x : BitVec 8) (k : Kernel) (h : x ≠ ch) : (s.setKernel ch k).kernel x = s.kernel x := by
  have hn : ch.toNat ≠ x.toNat := fun e => h (BitVec.eq_of_toNat_eq e.symm)
  simp [State.kernel, State.setKernel, List.getElem?_set_ne hn]

/-- What completing a command leaves of its port (R112). -/
theorem State.portState_complete_cur (len : Nat) :
    (s.complete len).portState s.cur =
      { s.portState s.cur with
        fifo := (s.portState s.cur).fifo.drop len, cp := (s.portState s.cur).cp + BitVec.ofNat 32 len, job := none } := by
  simp [State.complete]

/-- Completing a command leaves the other port. -/
theorem State.portState_complete_ne (len : Nat) (q : Port) (h : q ≠ s.cur) : (s.complete len).portState q = s.portState q := by
  simp [State.complete, State.portState_setPort_ne _ _ _ _ h]

/-- What an error leaves of its port (R212). -/
theorem State.portState_raise_cur (c : ErrCode) :
    (s.raise c).portState s.cur =
      { s.portState s.cur with err := true, errCode := c, errCp := (s.portState s.cur).cp, job := none } := by
  simp [State.raise]

/-- An error leaves the other port (R210). -/
theorem State.portState_raise_ne (c : ErrCode) (q : Port) (h : q ≠ s.cur) : (s.raise c).portState q = s.portState q := by
  simp [State.raise, State.portState_setPort_ne _ _ _ _ h]

end Sys2Proof.Machine
end

