-- ==== Sys2Proof/Laws/Memory.lean ====
section
/-! SUPPORT. What the memory operations do (R70–R73): every one keeps the canonical form, a write is read back, and it leaves
every other byte and word alone. -/

namespace Sys2Proof.Machine

/-! ## Bytes -/

theorem memByte?_putByte_same (m : List Host.Cell) (x : Nat) (v : BitVec 8) : memByte? (putByte m x v) x = some v := by
  induction m with
  | nil => simp [putByte, memByte?]
  | cons c m ih =>
    obtain ⟨a, b⟩ := c
    simp only [putByte]
    split_ifs with h1 h2
    · simp [memByte?]
    · simp [memByte?]
    · simp [memByte?, h2, ih]

theorem memByte?_putByte_ne (m : List Host.Cell) (x y : Nat) (v : BitVec 8) (h : y ≠ x) :
    memByte? (putByte m x v) y = memByte? m y := by
  induction m with
  | nil => simp [putByte, memByte?, h]
  | cons c m ih =>
    obtain ⟨a, b⟩ := c
    simp only [putByte]
    split_ifs with h1 h2
    · simp [memByte?, h]
    · subst h2; simp [memByte?, h]
    · simp [memByte?, ih]

/-- Reading a byte after a write. -/
theorem memByte?_putByte (m : List Host.Cell) (x y : Nat) (v : BitVec 8) :
    memByte? (putByte m x v) y = if y = x then some v else memByte? m y := by
  split_ifs with h
  · rw [h, memByte?_putByte_same]
  · exact memByte?_putByte_ne m x y v h

/-! ## The canonical form -/

theorem Memory.wf_tail {c : Host.Cell} {m : List Host.Cell} (h : Memory.wf (c :: m) = true) : Memory.wf m = true := by
  cases m with
  | nil => rfl
  | cons d m => simp only [Memory.wf, Bool.and_eq_true] at h; exact h.2

/-- A byte put into memory comes before nothing that the address below it did not. -/
theorem Memory.wf_cons_putByte {c : Host.Cell} {m : List Host.Cell} (x : Nat) (v : BitVec 8) (hc : c.1 < x)
    (h : Memory.wf (c :: m) = true) (ih : Memory.wf (putByte m x v) = true) : Memory.wf (c :: putByte m x v) = true := by
  obtain ⟨a, b⟩ := c
  cases m with
  | nil => simpa [putByte, Memory.wf] using hc
  | cons d m =>
    obtain ⟨e, w⟩ := d
    simp only [Memory.wf, Bool.and_eq_true, decide_eq_true_eq] at h
    simp only [putByte] at ih ⊢
    split_ifs at ih ⊢ <;> simp only [Memory.wf, Bool.and_eq_true, decide_eq_true_eq] at ih ⊢
    · exact ⟨hc, ih⟩
    · exact ⟨hc, ih⟩
    · exact ⟨h.1, ih⟩

/-- A byte write keeps the canonical form. -/
theorem Memory.wf_putByte (m : List Host.Cell) (x : Nat) (v : BitVec 8) (h : Memory.wf m = true) :
    Memory.wf (putByte m x v) = true := by
  induction m with
  | nil => rfl
  | cons c m ih =>
    obtain ⟨a, b⟩ := c
    have hm := ih (Memory.wf_tail h)
    by_cases h1 : x < a
    · simp [putByte, h1, Memory.wf]; simpa using h
    · by_cases h2 : x = a
      · subst h2
        cases m with
        | nil => simp [putByte, Memory.wf]
        | cons d m => simpa [putByte, Memory.wf] using h
      · have : putByte ((a, b) :: m) x v = (a, b) :: putByte m x v := by simp [putByte, h1, h2]
        rw [this]
        exact Memory.wf_cons_putByte x v (show a < x by omega) h hm

/-- A word write keeps the canonical form. -/
theorem Memory.wf_putWord (m : List Host.Cell) (a : Nat) (w : Word) (h : Memory.wf m = true) :
    Memory.wf (putWord m a w) = true :=
  Memory.wf_putByte _ _ _ (Memory.wf_putByte _ _ _ (Memory.wf_putByte _ _ _ (Memory.wf_putByte _ _ _ h)))

/-- `MemWrite` keeps the canonical form. -/
theorem Memory.wf_memWrite (s : State) (a : Nat) (w : Word) (h : Memory.wf s.mem = true) :
    Memory.wf (s.memWrite a w).mem = true := Memory.wf_putWord _ _ _ h

/-- A run of writes keeps the canonical form. -/
theorem Memory.wf_memWrites (ws : List Word) (a : Nat) (s : State) (h : Memory.wf s.mem = true) :
    Memory.wf (State.memWrites a ws s).mem = true := by
  induction ws generalizing a s with
  | nil => exact h
  | cons w ws ih => exact ih (a + 1) (s.memWrite a w) (Memory.wf_memWrite s a w h)

/-! ## Words -/

/-- A byte outside the four of a word is untouched by a write to the word. -/
theorem memByte?_putWord_ne (m : List Host.Cell) (a y : Nat) (w : Word) (h : y / 4 ≠ a) :
    memByte? (putWord m a w) y = memByte? m y := by
  have h0 : y ≠ 4 * a := by omega
  have h1 : y ≠ 4 * a + 1 := by omega
  have h2 : y ≠ 4 * a + 2 := by omega
  have h3 : y ≠ 4 * a + 3 := by omega
  simp only [putWord]
  rw [memByte?_putByte_ne _ _ _ _ h3, memByte?_putByte_ne _ _ _ _ h2, memByte?_putByte_ne _ _ _ _ h1,
    memByte?_putByte_ne _ _ _ _ h0]

/-- The four bytes of a word written, little-endian (R73). -/
theorem memByte?_putWord_same (m : List Host.Cell) (a k : Nat) (w : Word) (hk : k < 4) :
    memByte? (putWord m a w) (4 * a + k) = some (byteOf w k) := by
  have : k = 0 ∨ k = 1 ∨ k = 2 ∨ k = 3 := by omega
  rcases this with rfl | rfl | rfl | rfl <;> simp [putWord, memByte?_putByte]

/-- The bytes of a word, joined, are the word. -/
theorem join_byteOf (w : Word) : byteOf w 3 ++ byteOf w 2 ++ byteOf w 1 ++ byteOf w 0 = w := by
  apply BitVec.eq_of_getLsbD_eq
  intro i hi
  simp only [byteOf, BitVec.getLsbD_append, BitVec.getLsbD_extractLsb']
  split_ifs with h0 h1 h2
  · simp [h0]
  · simp [h1, show 8 + (i - 8) = i by omega]
  · simp [h2, show 16 + (i - 8 - 8) = i by omega]
  · simp [show i - 8 - 8 - 8 < 8 by omega, show 24 + (i - 8 - 8 - 8) = i by omega]

/-- A word written is read back (R71). -/
theorem memWord?_putWord_same (m : List Host.Cell) (a : Nat) (w : Word) : memWord? (putWord m a w) a = some w := by
  have h0 := memByte?_putWord_same m a 0 w (by omega)
  simp only [Nat.add_zero] at h0
  simp only [memWord?, h0, memByte?_putWord_same m a 1 w (by omega), memByte?_putWord_same m a 2 w (by omega),
    memByte?_putWord_same m a 3 w (by omega), join_byteOf]

/-- Every other word is untouched (R71). -/
theorem memWord?_putWord_ne (m : List Host.Cell) (a b : Nat) (w : Word) (h : b ≠ a) :
    memWord? (putWord m a w) b = memWord? m b := by
  simp only [memWord?]
  rw [memByte?_putWord_ne m a (4 * b) w (by omega), memByte?_putWord_ne m a (4 * b + 1) w (by omega),
    memByte?_putWord_ne m a (4 * b + 2) w (by omega), memByte?_putWord_ne m a (4 * b + 3) w (by omega)]

/-! ## Reads and draws -/

/-- `MemRead` leaves all of the state but the count of draws (R76). -/
theorem State.memRead_state (s : State) (a : Nat) :
    (s.memRead a).2 = s.setDraws (if (memWord? s.mem a).isSome then s.draws else s.draws + 1) := by
  unfold State.memRead
  cases h : memWord? s.mem a <;> rfl

/-- What `MemRead` returns: the word held, or the draw (R71, R72). -/
theorem State.memRead_word (s : State) (a : Nat) : (s.memRead a).1 = (memWord? s.mem a).getD (Config.unwrittenDraw s.draws) := by
  unfold State.memRead
  cases h : memWord? s.mem a <;> rfl

/-- A written result leaves all of the state but the count of draws (R9). -/
theorem State.fresh64_state (s : State) (v : Dword) :
    (s.fresh64 v).2 = s.setDraws (if isNaN64 v then s.draws + 1 else s.draws) := by
  unfold State.fresh64
  split_ifs <;> rfl

/-- A result that is no NaN is written as it is. -/
theorem State.fresh64_value (s : State) (v : Dword) (h : isNaN64 v = false) : s.fresh64 v = (v, s) := by
  simp [State.fresh64, h]

/-- A written binary32 result leaves all of the state but the count of draws (R9). -/
theorem State.fresh32_state (s : State) (w : Word) :
    (s.fresh32 w).2 = s.setDraws (if isNaN32 w then s.draws + 1 else s.draws) := by
  unfold State.fresh32
  split_ifs <;> rfl

/-- A binary32 result that is no NaN is written as it is. -/
theorem State.fresh32_value (s : State) (w : Word) (h : isNaN32 w = false) : s.fresh32 w = (w, s) := by
  simp [State.fresh32, h]

@[simp] theorem State.setDraws_setDraws (s : State) (n k : Nat) : (s.setDraws n).setDraws k = s.setDraws k := rfl

/-- The draws of a coefficient set change nothing but the count of draws (R9). -/
theorem State.freshCoefs_state (s : State) (c : Coefs) : ∃ n, (s.freshCoefs c).2 = s.setDraws n := by
  simp only [State.freshCoefs, State.fresh64_state, State.setDraws_setDraws]
  exact ⟨_, rfl⟩

/-- A coefficient set without NaNs is written as it is. -/
theorem State.freshCoefs_value (s : State) (c : Coefs)
    (h : isNaN64 c.a0 = false ∧ isNaN64 c.a1 = false ∧ isNaN64 c.a2 = false ∧ isNaN64 c.b1 = false ∧ isNaN64 c.b2 = false) :
    s.freshCoefs c = (c, s) := by
  obtain ⟨h0, h1, h2, h3, h4⟩ := h
  simp [State.freshCoefs, State.fresh64_value, h0, h1, h2, h3, h4]

/-- The read half of a sample changes one kernel and the count of draws (R155, R159). -/
theorem State.sampleIn_state (s : State) (ch : BitVec 8) (a : Nat) :
    ∃ n x y, (s.sampleIn ch a).2 =
      (s.setDraws n).setKernel ch { s.kernel ch with x2 := (s.kernel ch).x1, x1 := x, y2 := (s.kernel ch).y1, y1 := y } := by
  simp only [State.sampleIn, State.memRead_state, State.fresh64_state, State.fresh32_state, State.setDraws_setDraws]
  exact ⟨_, _, _, rfl⟩

end Sys2Proof.Machine
end

