-- ==== Sys2Proof/Laws/Commands.lean ====
section
/-! SUPPORT. What a whole command can do, said once per shared operation: the header checks, the completion or the error of
`State.issue`, what the host sees, the coefficient write, the sample loop, the curve loop; and what a step can be. -/

namespace Sys2Proof.Machine

/-! ## A command is its rule, issued -/

/-- The rule of a command, as its meaning issues it. -/
def commandRule : Instr → State → Ended
  | .wrp sel value => wrpRule sel value
  | .process ch _ src dst n => processRule ch src.toNat dst.toNat n.toNat
  | .reset ch => resetRule ch
  | .calcCoef ch f res => calcRule ch f res
  | .eval ch freq dst => evalRule ch freq dst.toNat
  | .curve ch a n => curveRule ch a.toNat n.toNat
  | .rdcoef ch dst => rdcoefRule ch dst.toNat

/-- Every command is its rule behind the header checks. -/
theorem exec_eq_issue (i : Instr) (s : State) : exec i s = .next (s.issue i.header (commandRule i)) := by
  cases i <;> rfl

/-- `issue` with a header error. -/
theorem State.issue_fault {s : State} {hd : Header} {rule : State → Ended} {c : ErrCode}
    (h : headerFault s.cur s.nch hd = some c) : s.issue hd rule = s.raise c := by
  simp only [State.issue, h]

/-- `issue` of a rule that completes. -/
theorem State.issue_done {s t : State} {hd : Header} {rule : State → Ended} (h : headerFault s.cur s.nch hd = none)
    (hr : rule s = .done t) : s.issue hd rule = t.complete hd.op.len := by
  simp only [State.issue, h, hr]

/-- `issue` of a rule that fails. -/
theorem State.issue_failed {s t : State} {hd : Header} {rule : State → Ended} {c : ErrCode}
    (h : headerFault s.cur s.nch hd = none) (hr : rule s = .failed c t) : s.issue hd rule = t.raise c := by
  simp only [State.issue, h, hr]

/-- Everything a command can do: a header error, its own error, or completion. -/
theorem exec_cases {i : Instr} {s t : State} (h : exec i s = .next t) :
    (∃ c, headerFault s.cur s.nch i.header = some c ∧ t = s.raise c) ∨
    (headerFault s.cur s.nch i.header = none ∧ ∃ c u, commandRule i s = .failed c u ∧ t = u.raise c) ∨
    (headerFault s.cur s.nch i.header = none ∧ ∃ u, commandRule i s = .done u ∧ t = u.complete i.len) := by
  rw [exec_eq_issue] at h
  cases hf : headerFault s.cur s.nch i.header with
  | some c => rw [State.issue_fault hf] at h; cases h; exact .inl ⟨c, rfl, rfl⟩
  | none =>
    cases hr : commandRule i s with
    | failed c u => rw [State.issue_failed hf hr] at h; cases h; exact .inr (.inl ⟨rfl, c, u, rfl, rfl⟩)
    | done u => rw [State.issue_done hf hr] at h; cases h; exact .inr (.inr ⟨rfl, u, rfl, rfl⟩)

/-- A header of a command that names a channel passes its checks on a port that may run it (R102, R106). -/
theorem headerFault_none {p : Port} {n : Nat} {hd : Header} (ho : hd.op ≠ .wrp) (hp : p = .R ∨ hd.op.renderOnly = false)
    (hc : hd.ch.toNat < n) : headerFault p n hd = none := by
  have h1 : ¬(p = .D ∧ hd.op.renderOnly = true) := by
    rintro ⟨rfl, h⟩
    rcases hp with hp | hp
    · cases hp
    · rw [hp] at h; cases h
  have h2 : ¬(hd.op ≠ .wrp ∧ n ≤ hd.ch.toNat) := fun h => by omega
  have h3 : ¬(hd.op = .wrp ∧ 2 < hd.sel.toNat) := fun h => ho h.1
  simp only [headerFault, h1, h2, h3, if_false]

/-- The header of a WRP with `SEL` 0, 1 or 2 passes its checks on either port (R107). -/
theorem headerFault_wrp {p : Port} {n : Nat} {sel : BitVec 8} {value : Word} (h : sel.toNat ≤ 2) :
    headerFault p n (Instr.wrp sel value).header = none := by
  have h3 : ¬(2 < sel.toNat) := by omega
  simp [headerFault, Instr.header, Op.renderOnly, h3]

/-! ## Completion, error, and what the host has seen -/

/-- A rule that keeps the port and the host's record completes as `completed` says. -/
theorem completed_of_complete {s u : State} (len : Nat) (hc : u.cur = s.cur) (hp : u.portState s.cur = s.portState s.cur)
    (hu : u.unseen = s.unseen) : completed len s (u.complete len) := by
  constructor
  · rw [← hc, State.portState_complete_cur, hc, hp]
  · rw [State.complete_unseen, hc, hp, hu]

/-- A rule that keeps the port and the host's record fails as `failedWith` says. -/
theorem failedWith_of_raise {s u : State} (c : ErrCode) (hc : u.cur = s.cur) (hp : u.portState s.cur = s.portState s.cur)
    (hu : u.unseen = s.unseen) : failedWith c s (u.raise c) := by
  constructor
  · rw [← hc, State.portState_raise_cur, hc, hp]
  · rw [State.raise_unseen, hu]

/-- A read of `STATUS_P` changes only the records of what the host has seen of that port (R44, R249, R252). -/
theorem State.seesStatus_eq (p : Port) (s : State) :
    s.seesStatus p = s ∨ s.seesStatus p = s.seen p ∨ s.seesStatus p = s.sawError p := by
  unfold State.seesStatus
  split_ifs
  · exact .inr (.inl rfl)
  · exact .inr (.inr rfl)
  · exact .inl rfl

/-- A register read changes only the records of what the host has seen of one port (R48, R249, R252). -/
theorem State.hostSees_eq (off : Nat) (s : State) :
    s.hostSees off = s ∨ ∃ p, s.hostSees off = s.seen p ∨ s.hostSees off = s.sawError p := by
  unfold State.hostSees
  split
  · exact (State.seesStatus_eq .R s).imp id fun h => ⟨.R, h⟩
  · exact (State.seesStatus_eq .D s).imp id fun h => ⟨.D, h⟩
  · exact .inr ⟨.R, .inl rfl⟩
  · exact .inr ⟨.D, .inl rfl⟩
  · exact .inl rfl

/-- Nothing of a port is unseen once the host has seen its completions (R249). -/
theorem State.seen_unseen (p : Port) (s : State) (e : Port × Instr) (h : e ∈ (s.seen p).unseen) : e.1 ≠ p ∧ e ∈ s.unseen := by
  simp only [State.seen, State.setUnseen_unseen, List.mem_filter, decide_eq_true_eq] at h
  exact ⟨h.2, h.1⟩

/-- Once the host has read `STATUS_P` with `ERR` = 1 it handles the error of that port (R252). -/
theorem State.handlesError_seesStatus (p : Port) (s : State) (h : (s.portState p).err = true) :
    (s.seesStatus p).handlesError p = true := by
  have hi : (s.portState p).idle = false := by simp [PortState.idle, h]
  have hp : (s.setErrorsSeen (s.errorsSeen.insert p)).portState p = s.portState p := State.setErrorsSeen_portState s _ p
  simp [State.seesStatus, hi, h, State.sawError, State.handlesError, hp]

/-- After the clear of a port no error of it is being handled (R216, R252). -/
theorem State.handlesError_clear (p : Port) (s : State) : (s.clear p).handlesError p = false := by
  cases p <;> rfl

/-- A word is in use when some port has the use of it and the host is not handling an error of that port (R248, R252). -/
theorem State.inUse_iff (x : Nat) (s : State) :
    s.inUse x = true ↔ ∃ p, s.portUses p x = true ∧ s.handlesError p = false := by
  simp only [State.inUse, Bool.or_eq_true, Bool.and_eq_true, Bool.not_eq_true']
  constructor
  · rintro (⟨h, g⟩ | ⟨h, g⟩)
    exacts [⟨.R, g, h⟩, ⟨.D, g, h⟩]
  · rintro ⟨p, g, h⟩
    cases p
    exacts [.inl ⟨h, g⟩, .inr ⟨h, g⟩]

/-! ## Coefficient reads -/

/-- A coefficient set with one register replaced, read back (R34). -/
theorem Coefs.get_set (c : Coefs) (r q : CoefReg) (v : Dword) : (c.set r v).get q = if q = r then v else c.get q := by
  cases r <;> cases q <;> rfl

/-- A step of coefficient reads takes one of the registers left, as the channel holds it, and one free choice (R81, R184). -/
theorem stepCoefRead_eq (ch : BitVec 8) (r₀ : CoefReg) (todo : List CoefReg) (got : Coefs) (s : State) :
    ∃ j r, (r₀ :: todo)[j]? = some r ∧
      stepCoefRead ch (r₀ :: todo) got s =
        ((r₀ :: todo).eraseIdx j, got.set r ((s.kernel ch).coef.get r), s.setTicks (s.ticks + 1)) := by
  have hl : Config.pick s.ticks % (r₀ :: todo).length < (r₀ :: todo).length := Nat.mod_lt _ (by simp)
  refine ⟨_, _, List.getElem?_eq_getElem hl, ?_⟩
  simp only [stepCoefRead, State.choose, List.getElem?_eq_getElem hl]

/-! ## The coefficient write -/

/-- The values written are the values computed, each NaN replaced by a NaN (R9). -/
theorem State.freshCoefs_isNaN (s : State) (c : Coefs) (r : CoefReg) :
    (isNaN64 (c.get r) = false → (s.freshCoefs c).1.get r = c.get r) := by
  intro h
  cases r <;> simp only [Coefs.get] at h <;> simp [State.freshCoefs, Coefs.get, State.fresh64, h]

/-- The five register writes of a coefficient set are one write of the channel's kernel. -/
theorem State.writeCoefRegs_eq (s : State) (ch : BitVec 8) (c : Coefs) :
    s.writeCoefRegs ch c = s.setKernel ch { s.kernel ch with coef := c } := by
  by_cases h : ch.toNat < s.nch
  · simp only [State.writeCoefRegs, State.writeCoefReg, Coefs.set]
    rw [State.kernel_setKernel_same _ _ _ h]
    simp only [State.setKernel, State.setKernels, State.kernel, State.nch] at *
    simp [h]
  · simp only [State.nch, Nat.not_lt] at h
    simp [State.writeCoefRegs, State.writeCoefReg, State.setKernel, State.setKernels, List.set_eq_of_length_le h]

/-- A coefficient write as one update of the channel, of `NCOEF` and of the count of draws (R131). -/
theorem State.writeCoef_eq (s : State) (ch : BitVec 8) (c : Coefs) :
    s.writeCoef ch c =
      (((s.freshCoefs c).2.writeCoefRegs ch (s.freshCoefs c).1).validateCoef ch) := rfl

/-! ## Words written in a row -/

/-- A run of writes changes only `MEM`. -/
theorem State.memWrites_eq (ws : List Word) (a : Nat) (s : State) :
    State.memWrites a ws s = s.setMem (State.memWrites a ws s).mem := by
  induction ws generalizing a s with
  | nil => rfl
  | cons w ws ih => rw [State.memWrites, ih]; rfl

/-- A run of writes leaves every byte outside its words. -/
theorem State.memByte?_memWrites_ne (ws : List Word) (a y : Nat) (s : State) (h : y / 4 < a ∨ a + ws.length ≤ y / 4) :
    memByte? (State.memWrites a ws s).mem y = memByte? s.mem y := by
  induction ws generalizing a s with
  | nil => rfl
  | cons w ws ih =>
    simp only [List.length_cons] at h
    rw [State.memWrites, ih (a + 1) (s.memWrite a w) (by omega)]
    exact memByte?_putWord_ne _ _ _ _ (by omega)

/-- A run of writes leaves every word outside its words. -/
theorem State.memWord?_memWrites_ne (ws : List Word) (a b : Nat) (s : State) (h : b < a ∨ a + ws.length ≤ b) :
    memWord? (State.memWrites a ws s).mem b = memWord? s.mem b := by
  induction ws generalizing a s with
  | nil => rfl
  | cons w ws ih =>
    simp only [List.length_cons] at h
    rw [State.memWrites, ih (a + 1) (s.memWrite a w) (by omega)]
    exact memWord?_putWord_ne _ _ _ _ (by omega)

/-- A run of writes puts each word at its place. -/
theorem State.memWord?_memWrites (ws : List Word) (a j : Nat) (s : State) (h : j < ws.length) :
    memWord? (State.memWrites a ws s).mem (a + j) = ws[j]? := by
  induction ws generalizing a j s with
  | nil => simp at h
  | cons w ws ih =>
    rw [State.memWrites]
    cases j with
    | zero =>
      rw [State.memWord?_memWrites_ne _ _ _ _ (by omega)]
      exact memWord?_putWord_same _ _ _
    | succ j =>
      simp only [List.length_cons] at h
      rw [show a + (j + 1) = a + 1 + j by omega, ih (a + 1) j _ (by omega)]
      simp

/-! ## The sample loop and the curve loop -/

/-- What no part of a running command touches. -/
structure State.sameOutside (s t : State) : Prop where
  portR : t.portR = s.portR
  portD : t.portD = s.portD
  params : t.params = s.params
  cfg : t.cfg = s.cfg
  cur : t.cur = s.cur
  host : t.host = s.host
  returned : t.returned = s.returned
  unseen : t.unseen = s.unseen
  errorsSeen : t.errorsSeen = s.errorsSeen
  ticks : t.ticks = s.ticks
  nch : t.nch = s.nch

theorem State.sameOutside.refl (s : State) : s.sameOutside s := ⟨rfl, rfl, rfl, rfl, rfl, rfl, rfl, rfl, rfl, rfl, rfl⟩

theorem State.sameOutside.trans {s t u : State} (h : s.sameOutside t) (g : t.sameOutside u) : s.sameOutside u :=
  ⟨g.portR.trans h.portR, g.portD.trans h.portD, g.params.trans h.params, g.cfg.trans h.cfg, g.cur.trans h.cur,
    g.host.trans h.host, g.returned.trans h.returned, g.unseen.trans h.unseen, g.errorsSeen.trans h.errorsSeen, g.ticks.trans h.ticks, g.nch.trans h.nch⟩

/-- One sample touches the channel, its output word and the count of draws. -/
theorem State.sample_sameOutside (s : State) (ch : BitVec 8) (src dst : Nat) : s.sameOutside (s.sample ch src dst) := by
  obtain ⟨n, x, y, h⟩ := State.sampleIn_state s ch src
  have e : s.sample ch src dst = (s.sampleIn ch src).2.memWrite dst (s.sampleIn ch src).1 := rfl
  rw [e, h]
  exact ⟨rfl, rfl, rfl, rfl, rfl, rfl, rfl, rfl, rfl, rfl, by simp⟩

/-- The sample loop touches the channel, its output words and the count of draws (R159). -/
theorem State.samples_sameOutside (n : Nat) (ch : BitVec 8) (src dst : Nat) (s : State) :
    s.sameOutside (State.samples ch src dst n s) := by
  induction n generalizing src dst s with
  | zero => exact .refl s
  | succ n ih => exact (State.sample_sameOutside s ch src dst).trans (ih _ _ _)

/-- A coefficient write touches the channel, `NCOEF` and the count of draws (R131). -/
theorem State.writeCoef_sameOutside (s : State) (ch : BitVec 8) (c : Coefs) : s.sameOutside (s.writeCoef ch c) := by
  obtain ⟨n, h⟩ := State.freshCoefs_state s c
  rw [State.writeCoef_eq, h]
  generalize (s.freshCoefs c).1 = d
  exact ⟨rfl, rfl, rfl, rfl, rfl, rfl, rfl, rfl, rfl, rfl, by simp⟩

/-- A recompute touches the channel, `NCOEF` and the count of draws, or nothing (R154). -/
theorem State.recompute_sameOutside (s : State) (ch : BitVec 8) (f res : Dword) : s.sameOutside (s.recompute ch f res) := by
  unfold State.recompute
  split_ifs
  · have h := State.writeCoef_sameOutside s ch (coefFn s.cfg.expForm f res)
    generalize s.writeCoef ch (coefFn s.cfg.expForm f res) = t at h ⊢
    exact h.trans ⟨rfl, rfl, rfl, rfl, rfl, rfl, rfl, rfl, rfl, rfl, by simp⟩
  · exact .refl s

/-- One sample leaves `NCOEF` and every byte outside its output word. -/
theorem State.sample_memory (s : State) (ch : BitVec 8) (src dst : Nat) :
    (s.sample ch src dst).ncoef = s.ncoef ∧
      ∀ y, y / 4 ≠ dst → memByte? (s.sample ch src dst).mem y = memByte? s.mem y := by
  obtain ⟨n, x, y, h⟩ := State.sampleIn_state s ch src
  have e : s.sample ch src dst = (s.sampleIn ch src).2.memWrite dst (s.sampleIn ch src).1 := rfl
  rw [e, h]
  exact ⟨rfl, fun y hy => memByte?_putWord_ne _ _ _ _ hy⟩

/-- The sample loop leaves `NCOEF` and every byte outside its output words (R156). -/
theorem State.samples_memory (n : Nat) (ch : BitVec 8) (src dst : Nat) (s : State) :
    (State.samples ch src dst n s).ncoef = s.ncoef ∧
      ∀ y, (y / 4 < dst ∨ dst + n ≤ y / 4) → memByte? (State.samples ch src dst n s).mem y = memByte? s.mem y := by
  induction n generalizing src dst s with
  | zero => exact ⟨rfl, fun _ _ => rfl⟩
  | succ n ih =>
    obtain ⟨h1, h2⟩ := State.sample_memory s ch src dst
    obtain ⟨g1, g2⟩ := ih (src + 1) (dst + 1) (s.sample ch src dst)
    exact ⟨g1.trans h1, fun y hy => (g2 y (by omega)).trans (h2 y (by omega))⟩

/-- A magnitude written: `MEM` at `dst` and the count of draws, or nothing (R181). -/
theorem writeMagnitude_cases (c : Coefs) (rate freq : Word) (dst : Nat) (s : State) :
    (magnitude c (to64 freq) (to64 rate) = none ∧ writeMagnitude c rate freq dst s = .failed .degenerate s) ∨
    ∃ m, magnitude c (to64 freq) (to64 rate) = some m ∧
      writeMagnitude c rate freq dst s = .done ((s.fresh32 m).2.memWrite dst (s.fresh32 m).1) := by
  cases h : magnitude c (to64 freq) (to64 rate) with
  | none => exact .inl ⟨rfl, by simp only [writeMagnitude, h]⟩
  | some m => exact .inr ⟨m, rfl, by simp only [writeMagnitude, h]⟩

/-- Everything a CURVE entry can do (R182): its frequency word is out of the domain, or degenerate, or its magnitude is written. The count of
draws moves where the word is not written. -/
theorem curveEntry_cases (ch : BitVec 8) (a : Nat) (s : State) :
    ∃ n,
      (responseDomain s.params.rate (s.memRead a).1 = false ∧ curveEntry ch a s = .failed .domain (s.setDraws n)) ∨
      (responseDomain s.params.rate (s.memRead a).1 = true ∧
        magnitude (s.kernel ch).coef (to64 (s.memRead a).1) (to64 s.params.rate) = none ∧
        curveEntry ch a s = .failed .degenerate (s.setDraws n)) ∨
      ∃ m, responseDomain s.params.rate (s.memRead a).1 = true ∧
        magnitude (s.kernel ch).coef (to64 (s.memRead a).1) (to64 s.params.rate) = some m ∧
        curveEntry ch a s = .done (((s.setDraws n).fresh32 m).2.memWrite (a + 1) ((s.setDraws n).fresh32 m).1) := by
  obtain ⟨n, hr⟩ : ∃ n, (s.memRead a).2 = s.setDraws n := ⟨_, State.memRead_state s a⟩
  refine ⟨n, ?_⟩
  have e : curveEntry ch a s =
      if !responseDomain (s.memRead a).2.params.rate (s.memRead a).1 then .failed .domain (s.memRead a).2
      else writeMagnitude ((s.memRead a).2.kernel ch).coef (s.memRead a).2.params.rate (s.memRead a).1 (a + 1) (s.memRead a).2 := rfl
  rw [e, hr]
  cases hd : responseDomain s.params.rate (s.memRead a).1 with
  | false => exact .inl ⟨rfl, by simp [hd]⟩
  | true =>
    rcases writeMagnitude_cases (s.kernel ch).coef s.params.rate (s.memRead a).1 (a + 1) (s.setDraws n) with ⟨hm, g⟩ | ⟨m, hm, g⟩
    · exact .inr (.inl ⟨rfl, hm, by simp [hd, g]⟩)
    · exact .inr (.inr ⟨m, rfl, hm, by simp [hd, g]⟩)

/-- One CURVE entry, completed or failed, keeps everything but its magnitude word and the count of draws (R182). -/
theorem curveEntry_frame (ch : BitVec 8) (a : Nat) (s t : State)
    (h : curveEntry ch a s = .done t ∨ ∃ c, curveEntry ch a s = .failed c t) :
    s.sameOutside t ∧ t.kernels = s.kernels ∧ t.ncoef = s.ncoef ∧
      ∀ y, y / 4 ≠ a + 1 → memByte? t.mem y = memByte? s.mem y := by
  obtain ⟨n, ⟨_, g⟩ | ⟨_, _, g⟩ | ⟨m, _, _, g⟩⟩ := curveEntry_cases ch a s
  all_goals
    rw [g] at h
    rcases h with h | ⟨c, h⟩ <;> cases h
  · exact ⟨⟨rfl, rfl, rfl, rfl, rfl, rfl, rfl, rfl, rfl, rfl, rfl⟩, rfl, rfl, fun _ _ => rfl⟩
  · exact ⟨⟨rfl, rfl, rfl, rfl, rfl, rfl, rfl, rfl, rfl, rfl, rfl⟩, rfl, rfl, fun _ _ => rfl⟩
  · rw [State.fresh32_state]
    exact ⟨⟨rfl, rfl, rfl, rfl, rfl, rfl, rfl, rfl, rfl, rfl, rfl⟩, rfl, rfl, fun y hy => memByte?_putWord_ne _ _ _ _ hy⟩

/-! ## What a step can be -/

/-- Everything a step can be: nothing can move; one agent moves alone; one of several makes one atomic step. -/
theorem step_cases {s t : State} (h : step s = .next t) :
    (s.ready = [] ∧ s.quiescent = .next t) ∨
    (∃ a, s.ready = [a] ∧ s.aloneStep a = .next t) ∨
    (∃ a ∈ s.ready, (s.setTicks (s.ticks + 1)).sharedStep a = .next t) := by
  unfold step at h
  split at h
  · exact .inl ⟨‹_›, h⟩
  · exact .inr (.inl ⟨_, ‹_›, h⟩)
  · rename_i a b as hr
    right; right
    have hl : Config.pick s.ticks % (a :: b :: as).length < (a :: b :: as).length := Nat.mod_lt _ (by simp)
    refine ⟨(a :: b :: as)[Config.pick s.ticks % (a :: b :: as).length], ?_, ?_⟩
    · rw [hr]; exact List.getElem_mem hl
    · simpa only [State.chooseAgent, State.choose, List.getElem?_eq_getElem hl, Option.getD_some] using h

/-- A machine in which nothing can move stays as it is when it does not stop (R225, R251). -/
theorem State.quiescent_next {s t : State} (h : s.quiescent = .next t) : t = s := by
  unfold State.quiescent at h
  split_ifs at h
  cases h; rfl

end Sys2Proof.Machine
end

