-- ==== Sys2Proof/Laws/PerInstr.lean ====
section
/-! SUPPORT. The statements made per command: its words are as many as its opcode's length (R103). -/

namespace Sys2Proof.Laws.EncodeLength

/-- A command is encoded in `LEN` words (R103). -/
def Statement (i : Instr) : Prop := (encode i).length = i.len

theorem wrp (sel : BitVec 8) (value : Word) : Statement (.wrp sel value) := rfl

theorem process (ch : BitVec 8) (sil : Bool) (src dst n : Word) : Statement (.process ch sil src dst n) := rfl

theorem reset (ch : BitVec 8) : Statement (.reset ch) := rfl

theorem calcCoef (ch : BitVec 8) (f res : Dword) : Statement (.calcCoef ch f res) := rfl

theorem eval (ch : BitVec 8) (freq dst : Word) : Statement (.eval ch freq dst) := rfl

theorem curve (ch : BitVec 8) (a n : Word) : Statement (.curve ch a n) := rfl

theorem rdcoef (ch : BitVec 8) (dst : Word) : Statement (.rdcoef ch dst) := rfl

end Sys2Proof.Laws.EncodeLength
end

