-- ==== Sys2Proof/Machine/Assembler.lean ====
section
/-! DEFINITION. The assembly language of the command set (30_encoding.md R116, R117), from the characters of one line to command
words. Nothing in the machine reads it. What R116 leaves to the reader of a decimal literal is in log entry 25. -/

namespace Sys2Proof.Machine

/-- Characters between tokens. -/
def isBlank (c : Char) : Bool := c == ' ' || c == '\t'

/-- Leading blanks dropped. -/
def skipBlanks : List Char → List Char
  | [] => []
  | c :: cs => if isBlank c then skipBlanks cs else c :: cs

/-- Leading and trailing blanks dropped. -/
def trimBlanks (cs : List Char) : List Char := (skipBlanks (skipBlanks cs).reverse).reverse

/-- What stands before the first `;` (R116: a comment begins there). -/
def dropComment : List Char → List Char
  | [] => []
  | c :: cs => if c == ';' then [] else c :: dropComment cs

/-- The mnemonic: everything up to the first blank, and what follows. -/
def splitMnemonic : List Char → List Char × List Char
  | [] => ([], [])
  | c :: cs => if isBlank c then ([], cs) else ((c :: (splitMnemonic cs).1), (splitMnemonic cs).2)

/-- The pieces between the occurrences of a separator. -/
def splitAt (sep : Char) : List Char → List (List Char)
  | [] => [[]]
  | c :: cs =>
    if c == sep then [] :: splitAt sep cs
    else
      match splitAt sep cs with
      | [] => [[c]]
      | p :: ps => (c :: p) :: ps

/-- The operands, separated by commas (R116); none of them for an empty text. -/
def splitOperands (cs : List Char) : List (List Char) :=
  if (trimBlanks cs).isEmpty then [] else (splitAt ',' cs).map trimBlanks

/-- A decimal digit. -/
def decDigit (c : Char) : Option Nat := if '0' ≤ c ∧ c ≤ '9' then some (c.toNat - 48) else none

/-- A hexadecimal digit. -/
def hexDigit (c : Char) : Option Nat :=
  if '0' ≤ c ∧ c ≤ '9' then some (c.toNat - 48)
  else if 'a' ≤ c ∧ c ≤ 'f' then some (c.toNat - 87)
  else if 'A' ≤ c ∧ c ≤ 'F' then some (c.toNat - 55)
  else none

/-- The number that digits write after those already read. -/
def digitsFrom (base : Nat) (digit : Char → Option Nat) : Nat → List Char → Option Nat
  | acc, [] => some acc
  | acc, c :: cs =>
    match digit c with
    | none => none
    | some d => digitsFrom base digit (base * acc + d) cs

/-- An unsigned decimal or `0x` hexadecimal integer (R116). -/
def parseNat (cs : List Char) : Option Nat :=
  match cs with
  | [] => none
  | '0' :: 'x' :: ds => if ds.isEmpty then none else digitsFrom 16 hexDigit 0 ds
  | ds => digitsFrom 10 decDigit 0 ds

/-- A u32; above 2^32 − 1 the assembler rejects it (R116). -/
def parseU32 (cs : List Char) : Option Word :=
  match parseNat cs with
  | none => none
  | some n => if n < 2 ^ 32 then some (BitVec.ofNat 32 n) else none

/-- A channel; above 255 the assembler rejects it (R116). -/
def parseChannel (cs : List Char) : Option (BitVec 8) :=
  match parseNat cs with
  | none => none
  | some n => if n < 256 then some (BitVec.ofNat 8 n) else none

/-- The magnitude bits nearest `d · 10^p / 10^q`, ties to even (R116). -/
def decimalMag (F : FloatFmt) (d p q : Nat) : Nat :=
  let a := d * 10 ^ p * 2 ^ (extraBits + 4 * q)
  F.roundMag (sticky (a / 10 ^ q) (a % 10 ^ q != 0)) (-(extraBits + 4 * q : Int) - 1)

/-- The exponent part of a decimal literal: nothing, or `e` and a signed integer. -/
def parseExp (cs : List Char) : Option (Bool × Nat) :=
  match cs with
  | [] => some (false, 0)
  | c :: ds =>
    if c == 'e' || c == 'E' then
      match ds with
      | [] => none
      | '-' :: es => if es.isEmpty then none else (digitsFrom 10 decDigit 0 es).map (fun n => (true, n))
      | '+' :: es => if es.isEmpty then none else (digitsFrom 10 decDigit 0 es).map (fun n => (false, n))
      | es => (digitsFrom 10 decDigit 0 es).map (fun n => (false, n))
    else none

/-- The leading decimal digits, and what follows. -/
def takeDigits : List Char → List Char × List Char
  | [] => ([], [])
  | c :: cs =>
    match decDigit c with
    | none => ([], c :: cs)
    | some _ => (c :: (takeDigits cs).1, (takeDigits cs).2)

/-- An unsigned decimal literal as magnitude bits: digits, a fraction, an exponent. -/
def parseDecimal (F : FloatFmt) (cs : List Char) : Option Nat :=
  let (whole, r) := takeDigits cs
  let (frac, r') :=
    match r with
    | '.' :: ds => takeDigits ds
    | _ => ([], r)
  if whole.isEmpty && frac.isEmpty then none
  else
    match digitsFrom 10 decDigit 0 (whole ++ frac), parseExp r' with
    | some d, some (neg, x) =>
      some (if neg then decimalMag F d 0 (frac.length + x) else decimalMag F d x frac.length)
    | _, _ => none

/-- A binary32 or binary64 literal (R116): `0x` and the raw pattern in `width / 4` digits, or a decimal literal. -/
def parseFloat (F : FloatFmt) (width : Nat) (cs : List Char) : Option Nat :=
  match cs with
  | '0' :: 'x' :: ds => if ds.length * 4 = width then digitsFrom 16 hexDigit 0 ds else none
  | '-' :: ds => (parseDecimal F ds).map (F.withSign true)
  | ds => parseDecimal F ds

/-- A `<f32>` (R116). -/
def parseF32 (cs : List Char) : Option Word := (parseFloat binary32 32 cs).map (BitVec.ofNat 32)

/-- A `<f64>` (R116). -/
def parseF64 (cs : List Char) : Option Dword := (parseFloat binary64 64 cs).map (BitVec.ofNat 64)

/-- The `SEL` names (R116); any other is rejected. -/
def parseSelect (cs : List Char) : Option (BitVec 8) :=
  if cs = ['C', 'U', 'T', 'O', 'F', 'F'] then some 0
  else if cs = ['R', 'E', 'S'] then some 1
  else if cs = ['R', 'A', 'T', 'E'] then some 2
  else none

/-- A command as its words, when all operands were read. -/
def emit (i : Option Instr) : Option (List Word) := i.map encode

/-- PROCESS with or without `SIL` (R116). -/
def assembleProcess (sil : Bool) (ch src dst n : List Char) : Option (List Word) :=
  emit do return .process (← parseChannel ch) sil (← parseU32 src) (← parseU32 dst) (← parseU32 n)

/-- One command from its mnemonic and operands (R116, R117); none where the assembler rejects it. -/
def assembleCommand (mn : List Char) (ops : List (List Char)) : Option (List Word) :=
  if mn = ['W', 'R', 'P'] then
    match ops with
    | [sel, v] => emit do return .wrp (← parseSelect sel) (← parseF32 v)
    | _ => none
  else if mn = ['W', 'R', 'C', 'U', 'T'] then
    match ops with
    | [v] => emit ((parseF32 v).map fun w => (Pseudo.wrcut w).expand)
    | _ => none
  else if mn = ['W', 'R', 'R', 'E', 'S'] then
    match ops with
    | [v] => emit ((parseF32 v).map fun w => (Pseudo.wrres w).expand)
    | _ => none
  else if mn = ['W', 'R', 'R', 'A', 'T', 'E'] then
    match ops with
    | [v] => emit ((parseF32 v).map fun w => (Pseudo.wrrate w).expand)
    | _ => none
  else if mn = ['P', 'R', 'O', 'C', 'E', 'S', 'S'] then
    match ops with
    | [ch, src, dst, n] => assembleProcess false ch src dst n
    | [ch, src, dst, n, sil] => if sil = ['S', 'I', 'L'] then assembleProcess true ch src dst n else none
    | _ => none
  else if mn = ['R', 'E', 'S', 'E', 'T'] then
    match ops with
    | [ch] => emit ((parseChannel ch).map .reset)
    | _ => none
  else if mn = ['C', 'A', 'L', 'C'] then
    match ops with
    | [ch, f, res] => emit do return .calcCoef (← parseChannel ch) (← parseF64 f) (← parseF64 res)
    | _ => none
  else if mn = ['E', 'V', 'A', 'L'] then
    match ops with
    | [ch, freq, dst] => emit do return .eval (← parseChannel ch) (← parseF32 freq) (← parseU32 dst)
    | _ => none
  else if mn = ['C', 'U', 'R', 'V', 'E'] then
    match ops with
    | [ch, a, n] => emit do return .curve (← parseChannel ch) (← parseU32 a) (← parseU32 n)
    | _ => none
  else if mn = ['R', 'D', 'C', 'O', 'E', 'F'] then
    match ops with
    | [ch, dst] => emit do return .rdcoef (← parseChannel ch) (← parseU32 dst)
    | _ => none
  else if mn = ['.', 'w', 'o', 'r', 'd'] then
    match ops with
    | [w] => (parseU32 w).map fun v => [v]
    | _ => none
  else none

/-- One line of assembly (R116): a command, or nothing but blanks and a comment. -/
def assembleLine (line : List Char) : Option (List Word) :=
  let code := trimBlanks (dropComment line)
  if code.isEmpty then some []
  else assembleCommand (splitMnemonic code).1 (splitOperands (splitMnemonic code).2)

end Sys2Proof.Machine
end

