-- ==== Sys2Proof/Tests/Slice0.lean ====
section
/-! SUPPORT. Tests. Expected values are the spec's own (95_test_vectors.md, named V-… in the comments, and the worked examples and rules
named there), or are worked out by hand from a rule. The last part shows, for each statement with hypotheses, that
something meets them. -/

namespace Sys2Proof.Tests

-- The tests are many small kernel evaluations: one after another, they need one thread.
set_option Elab.async false

open Sys2Proof.Machine

/-! ## A small machine: the test configuration of 95_test_vectors.md -/

/-- `NCH` = 4, `MEM_WORDS` = 1024, `EXP_FORM` = `DIV20`. -/
def fresh : State := State.resetWith 4 ⟨1024, 8, .div20⟩

/-- A channel with the coefficients of V-C3 and the cache that 44100, 1000 and 0 leave there (V-P1). -/
def workedKernel : Kernel :=
  { Kernel.created with
    coef := ⟨0x3F736033C15BF700#64, 0x3F836033C15BF700#64, 0x3F736033C15BF700#64, 0xBFFD93718098CA98#64, 0x3FEBC1E49F3C74E9#64⟩
    valid := true, lastF := 0x3FA7384EF2A605CE#64, lastR := 0 }

/-- A channel with the coefficients of V-C6, a double pole at z = 1. -/
def doublePole : Kernel := { workedKernel with coef := ⟨0, 0, 0, 0xC000000000000000#64, 0x3FF0000000000000#64⟩ }

/-- Channel 0 as in V-C3, channel 1 the same, channel 2 with a double pole, channel 3 as created; the parameters 44100, 1000 and 0. -/
def bench : State :=
  { fresh with
    kernels := [workedKernel, workedKernel, doublePole, Kernel.created]
    params := ⟨0x447A0000#32, 0#32, 0x472C4400#32, true, true, true⟩ }

/-- The machine with port D as the running port. -/
def onD (s : State) : State := s.setCur .D

/-- The state an outcome gives; the fresh machine where it gives none. -/
def after (o : Host.Outcome State Fault Refusal) : State :=
  match o with
  | .next s => s
  | .fault _ => fresh
  | .refused _ => fresh

theorem exec_after (i : Instr) (s : State) : exec i s = .next (after (exec i s)) := by
  rw [exec_eq_issue]; rfl

/-- The error code of port R after a command. -/
def errorR (i : Instr) (s : State) : Bool × ErrCode :=
  ((after (exec i s)).portR.err, (after (exec i s)).portR.errCode)

/-! ## Well-formedness: each check refuses an ill-formed term (R106, R107) -/

theorem test_wellFormed_accepts : (Instr.wrp 2 0).wellFormed 4 = true ∧ (Instr.rdcoef 3 0).wellFormed 4 = true := by decide
theorem test_wellFormed_wrp : (Instr.wrp 3 0).wellFormed 4 = false := by decide
theorem test_wellFormed_process : (Instr.process 4 false 0 0 1).wellFormed 4 = false := by decide
theorem test_wellFormed_reset : (Instr.reset 4).wellFormed 4 = false := by decide
theorem test_wellFormed_calc : (Instr.calcCoef 4 0 0).wellFormed 4 = false := by decide
theorem test_wellFormed_eval : (Instr.eval 255 0 0).wellFormed 4 = false := by decide
theorem test_wellFormed_curve : (Instr.curve 4 0 0).wellFormed 4 = false := by decide
theorem test_wellFormed_rdcoef : (Instr.rdcoef 1 0).wellFormed 1 = false := by decide

/-! ## Decoding: headers written out bit by bit, `OPC ++ CH ++ SEL ++ FLAGS` (R101, R102) -/

/-- WRP of `P_RES`: opcode 0x01, SEL 1. -/
theorem test_decode_wrp_bits :
    decode [0b00000001_00000000_00000001_00000000#32, 0x41A00000#32] = .ok (.wrp 1 0x41A00000#32) [] := by decide
/-- PROCESS on channel 5 with SIL: opcode 0x10, CH 5, FLAGS bit 0. -/
theorem test_decode_process_bits :
    decode [0b00010000_00000101_00000000_00000001#32, 7#32, 8#32, 9#32, 0xAB#32] = .ok (.process 5 true 7 8 9) [0xAB#32] := by decide
/-- RESET of channel 129: opcode 0x11. -/
theorem test_decode_reset_bits : decode [0b00010001_10000001_00000000_00000000#32] = .ok (.reset 129) [] := by decide
/-- CALC on channel 2: opcode 0x12; `f` = 0.5 and `res` = −2.0, low words first (R105). -/
theorem test_decode_calc_bits :
    decode [0b00010010_00000010_00000000_00000000#32, 0#32, 0x3FE00000#32, 0x7#32, 0xC0000000#32] =
      .ok (.calcCoef 2 0x3FE0000000000000#64 0xC000000000000007#64) [] := by decide
/-- EVAL on channel 1: opcode 0x20. -/
theorem test_decode_eval_bits :
    decode [0b00100000_00000001_00000000_00000000#32, 0x461C4000#32, 200#32] = .ok (.eval 1 0x461C4000#32 200) [] := by decide
/-- CURVE on channel 1: opcode 0x21 (V-E3). -/
theorem test_decode_curve_bits :
    decode [0b00100001_00000001_00000000_00000000#32, 0x12C#32, 3#32] = .ok (.curve 1 300 3) [] := by decide
/-- RDCOEF on channel 0: opcode 0x22 (V-C2). -/
theorem test_decode_rdcoef_bits :
    decode [0b00100010_00000000_00000000_00000000#32, 0x64#32] = .ok (.rdcoef 0 100) [] := by decide
/-- V-D1: illegal opcodes, whatever the other fields hold. -/
theorem test_decode_illegal :
    [0x13000000#32, 0#32, 0x02000000#32, 0x23000000#32, 0xFF000000#32, 0x13FFFFFF#32].map decodeHeader =
      [.error .illegalOpcode, .error .illegalOpcode, .error .illegalOpcode, .error .illegalOpcode, .error .illegalOpcode,
       .error .illegalOpcode] := by decide +kernel
/-- V-D2, V-W2, V-P14: reserved fields. -/
theorem test_decode_reserved :
    [0x11000001#32, 0x12000100#32, 0x21000080#32, 0x01010000#32, 0x01000001#32, 0x10000102#32, 0x10000002#32].map decodeHeader =
      [.error .reservedField, .error .reservedField, .error .reservedField, .error .reservedField, .error .reservedField,
       .error .reservedField, .error .reservedField] := by decide +kernel
/-- The header is enough to see that operand words are missing (R113). -/
theorem test_decode_short : decode [0x12000000#32, 0#32] = .short ⟨.calcCoef, 0, 0, false⟩ := by decide

/-! ## The opcode table: every row decodes, and runs as the first step after reset -/

theorem test_table_rows :
    [0x01000000, 0x10000000, 0x11000000, 0x12000000, 0x20000000, 0x21000000, 0x22000000].map (decodeTableWord 32) =
      [some (.wrp 0 0), some (.process 0 false 0 0 0), some (.reset 0), some (.calcCoef 0 0 0), some (.eval 0 0 0),
       some (.curve 0 0 0), some (.rdcoef 0 0)] := by decide

theorem test_first_step_runs_calc :
    step (State.reset.withFetchWord 160 (0x12000000 + 0x3FE00000 * 2 ^ 64)) =
      exec (.calcCoef 0 0x3FE0000000000000#64 0) (State.reset.withFetchWord 160 (0x12000000 + 0x3FE00000 * 2 ^ 64)) := by rfl

theorem test_first_step_runs_rdcoef :
    step (State.reset.withFetchWord 32 0x22000000) = exec (.rdcoef 0 0) (State.reset.withFetchWord 32 0x22000000) := by rfl

/-! ## WRP -/

/-- V-W1: `WRP RATE, 44100.0` sets the register and its flag and moves `CP_R` by 2. -/
theorem test_wrp_rate :
    let t := after (exec (.wrp 2 0x472C4400#32) fresh)
    t.params.rate = 0x472C4400#32 ∧ t.params.rateValid = true ∧ t.params.cutValid = false ∧ t.portR.cp = 2#32 := by decide +kernel
/-- V-W2: `SEL` = 3. -/
theorem test_wrp_bad_select : errorR (.wrp 3 0) fresh = (true, .badSelect) := by decide +kernel

/-! ## PROCESS -/

/-- The impulse of V-P1. -/
def impulse : State := State.memWrites 0 [0x3F800000#32, 0#32, 0#32, 0#32, 0#32] bench

/-- V-P1: outputs and end state. -/
theorem test_process_impulse :
    let t := after (exec (.process 0 false 0 16 5) impulse)
    (List.range 5).map (fun i => memWord? t.mem (16 + i)) =
      [some 0x3B9B019E#32, some 0x3C9522A5#32, some 0x3D0C682F#32, some 0x3D42DC48#32, some 0x3D6E684A#32] ∧
    (t.kernel 0).x1 = 0 ∧ (t.kernel 0).x2 = 0 ∧ (t.kernel 0).y1 = 0x3FADCD0940000000#64 ∧ (t.kernel 0).y2 = 0x3FA85B8900000000#64 ∧
    t.portR.cp = 4#32 := by decide +kernel
/-- V-P7: partial overlap, `dst` = `src` + 1. -/
theorem test_process_overlap :
    let t := after (exec (.process 0 false 0 1 3) impulse)
    (List.range 4).map (memWord? t.mem) =
      [some 0x3F800000#32, some 0x3B9B019E#32, some 0x3C955193#32, some 0x3D0D1CE6#32] := by decide +kernel

/-! ## RESET -/

/-- V-R1. -/
theorem test_reset_clears :
    let t := after (exec (.reset 0) (impulse.setKernel 0 { workedKernel with x1 := 1, y2 := 2 }))
    t.kernel 0 = { workedKernel with lastF := 0xBFF0000000000000#64, lastR := 0xBFF0000000000000#64 } ∧ t.portR.cp = 1#32 := by
  decide +kernel

/-! ## CALC and RDCOEF -/

/-- V-C1 with `POW10_64(−0.0)` = 1.0, `SIN64` = 1.0 and `COS64` = 6.123…e−17, the correctly rounded values at π/2. -/
theorem test_coef_half :
    coefWith one one 0x3C91A62633145C07#64 =
      ⟨0x3FD5555555555555#64, 0x3FE5555555555555#64, 0x3FD5555555555555#64, 0xBC978832EEC5D009#64, 0x3FD5555555555555#64⟩ := by
  decide +kernel
/-- V-C10: CALC's domain. -/
theorem test_calc_domain :
    [(0, 0), (0x8000000000000000#64, 0), (0x3FF0000000000001#64, 0), (0x7FF8000000000000#64, 0), (half, 0x7FF0000000000000#64),
      (half, 0x7FF8000000000000#64), (half, 0), (one, 0), (1, 0)].map (fun p : Dword × Dword => calcDomain p.1 p.2) =
      [false, false, false, false, false, false, true, true, true] := by decide +kernel
/-- V-C2: the words of the coefficients of V-C3, low word first. -/
theorem test_rdcoef_words :
    let t := after (exec (.rdcoef 0 100) bench)
    (List.range 10).map (fun i => memWord? t.mem (100 + i)) =
      [some 0xC15BF700#32, some 0x3F736033#32, some 0xC15BF700#32, some 0x3F836033#32, some 0xC15BF700#32, some 0x3F736033#32,
       some 0x8098CA98#32, some 0xBFFD9371#32, some 0x9F3C74E9#32, some 0x3FEBC1E4#32] := by decide +kernel

/-! ## EVAL and CURVE -/

/-- V-E1: the gain at 0 Hz, where P2 fixes the sine and the cosine. -/
theorem test_eval_dc :
    let t := after (exec (.eval 0 0 200) bench)
    memWord? t.mem 200 = some 0x3F800000#32 ∧ t.portR.cp = 3#32 := by decide +kernel
/-- V-E1: MAG at 22050 Hz, with `COS64(π)` = −1.0 and `SIN64(π)` = 1.22…e−16 correctly rounded: 0. -/
theorem test_magnitude_nyquist : magWith workedKernel.coef minusOne 0x3CA1A62633145C07#64 = some 0#32 := by decide +kernel
/-- V-E6: the coefficients of V-C7 (7000 dB) at `COS64(π/2)`, `SIN64` = 1.0. -/
theorem test_magnitude_degenerate :
    magWith ⟨0x3FDFFFFFFFFFFFFF#64, 0x3FEFFFFFFFFFFFFF#64, 0x3FDFFFFFFFFFFFFF#64, 0xBCA1A62633145C07#64, 0x3FF0000000000000#64⟩
      0x3C91A62633145C07#64 one = none := by decide +kernel

/-- A table of two entries at 400: 0 Hz and +infinity, with a pattern in the result words (V-E7). -/
def table : State :=
  (bench.memWrite 400 0#32).memWrites 401 [0xDEADBEEF#32, 0x7F800000#32, 0xDEADBEEF#32]

/-- V-E7: entry 0 stays written, entry 1 raises `DOMAIN`. -/
theorem test_curve_partial :
    let t := after (exec (.curve 0 400 2) table)
    memWord? t.mem 401 = some 0x3F800000#32 ∧ memWord? t.mem 403 = some 0xDEADBEEF#32 ∧ t.portR.err = true ∧
      t.portR.errCode = .domain ∧ t.portR.cp = 0#32 := by decide +kernel
/-- V-E3, V-E5: a CURVE with `N` = 0 is a no-op; `CURVE 0, 1000, 13` is out of range. -/
theorem test_curve_bounds :
    errorR (.curve 0 5000 0) fresh = (false, .none) ∧ (after (exec (.curve 0 5000 0) fresh)).portR.cp = 3#32 ∧
    errorR (.curve 0 1000 13) fresh = (true, .addrRange) := by decide +kernel

/-! ## The preamble and the errors of R214 -/

/-- V-P4: the preamble's clamps. -/
theorem test_preamble_clamps :
    preamble ⟨0x40A00000#32, 0#32, 0x472C4400#32, true, true, true⟩ = .ok (0x3F41D53A957D7519#64, 0) ∧
    preamble ⟨0x7F800000#32, 0xC20C0000#32, 0x472C4400#32, true, true, true⟩ = .ok (0x3FEFAE147AE147AE#64, 0xC034000000000000#64) ∧
    preamble ⟨0x447A0000#32, 0x80000000#32, 0x472C4400#32, true, true, true⟩ = .ok (0x3FA7384EF2A605CE#64, 0x8000000000000000#64) := by
  decide +kernel
/-- V-P14: PROCESS on buffers, parameters, channel and port, in the order of R214. -/
theorem test_error_order_process :
    errorR (.process 0 false 1020 0 5) bench = (true, .addrRange) ∧ errorR (.process 0 false 1024 0 1) fresh = (true, .addrRange) ∧
    errorR (.process 0 false 0 0 1) fresh = (true, .uninitParam) ∧ errorR (.process 4 false 0 0 1) bench = (true, .badChannel) ∧
    errorR (.process 0 false 0 0 1) (bench.setParams { bench.params with rate := 0x7F800000#32 }) = (true, .domain) ∧
    errorR (.process 0 false 5000 5000 0) fresh = (false, .none) ∧
    (after (exec (.process 4 false 0 0 1) (onD bench))).portD.errCode = .port := by decide +kernel
/-- V-E5 and R183: EVAL and RDCOEF; the double pole of V-C6 has a zero denominator at 0 Hz. -/
theorem test_error_order_reads :
    errorR (.eval 0 0 1024) fresh = (true, .addrRange) ∧ errorR (.eval 0 0 0) fresh = (true, .uninitParam) ∧
    errorR (.eval 3 0 0) bench = (true, .uninitCoef) ∧ errorR (.eval 0 0x7FC00000#32 0) bench = (true, .domain) ∧
    errorR (.eval 2 0 0) bench = (true, .degenerate) ∧
    errorR (.rdcoef 0 1014) fresh = (true, .uninitCoef) ∧ errorR (.rdcoef 0 1015) fresh = (true, .addrRange) := by decide +kernel

/-! ## STATUS, pushes and the clear -/

/-- V-D4: `STATUS` after reset, after `ILLEGAL_OPCODE` and after `DEGENERATE`. -/
theorem test_status_values :
    fresh.portR.status = 0x00000002#32 ∧ (fresh.raise .illegalOpcode).portR.status = 0x00000011#32 ∧
    (fresh.raise .degenerate).portR.status = 0x000000A1#32 := by decide +kernel
/-- R43, R215, R216: a push is appended, is discarded while halted, and after the clear is the head of the FIFO. -/
theorem test_push_and_clear :
    let s := (fresh.push .R 0x13000000#32).raise .illegalOpcode
    s.portR.fifo = [0x13000000#32] ∧ (s.push .R 5).portR.fifo = [0x13000000#32] ∧
    (s.writeStatus .R 1).portR.cp = 1#32 ∧ ((s.writeStatus .R 1).push .R 5).portR.fifo = [5#32] ∧
    (s.writeStatus .R 1).portR.status = 0x2#32 ∧ (s.writeStatus .R 2) = s := by decide +kernel
/-- R42, R47: the register map. -/
theorem test_registers :
    fresh.hostRegister 0x24 = 4#32 ∧ fresh.hostRegister 0x28 = 1023#32 ∧ fresh.hostRegister 0x0C = 2#32 ∧
    fresh.hostRegister 0x2C = 0#32 ∧ fresh.hostRegister 0x00 = 0#32 := by decide +kernel
/-- The host's pushes of `RESET 1` reach the port, and the port runs it (R43, R112). -/
theorem test_host_push_runs :
    let s := bench.setHost [.regWrite 0x00 4 0x11010000#32]
    let t := after (step s)
    t.portR.fifo = [0x11010000#32] ∧ (after (step t)).portR.cp = 1#32 ∧
      ((after (step t)).kernel 1).lastF = 0xBFF0000000000000#64 := by decide +kernel

/-- The host's write is refused as a race. -/
def isRace (o : Host.Outcome State Fault Refusal) : Bool :=
  match o with
  | .refused .hostRace => true
  | _ => false

/-- An EVAL pushed whole on port R. -/
def evalPushed : State := bench.loadAlone [0x20000000#32, 0#32, 200#32]

/-- R248: a host write to the result word of an EVAL is refused from the push of its last word on, also once the EVAL is complete. -/
theorem test_host_race :
    isRace (hostMove (.memWrite 800 4 5) evalPushed) = true ∧ (after (step evalPushed)).portR.fifo = [] ∧
    isRace (hostMove (.memWrite 800 4 5) (after (step evalPushed))) = true ∧
    isRace (hostMove (.memWrite 804 4 5) (after (step evalPushed))) = false := by decide +kernel

/-- R249: the write is made once the host has read `CP_R`, or `STATUS_R` with `IDLE` = 1; reading `CP_D` does not show it the EVAL. -/
theorem test_host_sees_completion :
    [0x18, 0x08, 0x1C, 0x0C].map (fun off =>
      isRace (hostMove (.memWrite 800 4 5) (after (hostMove (.regRead off 4) (after (step evalPushed)))))) =
      [false, false, true, true] := by decide +kernel

/-- An EVAL of a channel that does not exist, pushed on port R and failed with `BAD_CHANNEL`; an EVAL to word 200 waits on port D. -/
def evalFailed : State :=
  ((bench.loadAlone [0x20040000#32, 0#32, 201#32]).setPort .D { bench.portD with fifo := [0x20000000#32, 0#32, 200#32] }).raise .badChannel

/-- R252: while the host handles the error of port R, from its read of `STATUS_R` with `ERR` = 1, it may touch the words of that port's
dropped commands, and before it or after reading `STATUS_D` it may not; the words of port D's command stay in use. -/
theorem test_host_handles_error :
    isRace (hostMove (.memWrite 804 4 5) evalFailed) = true ∧
    [0x08, 0x0C].map (fun off => isRace (hostMove (.memWrite 804 4 5) (after (hostMove (.regRead off 4) evalFailed)))) =
      [false, true] ∧
    isRace (hostMove (.memWrite 800 4 5) (after (hostMove (.regRead 0x08 4) evalFailed))) = true := by decide +kernel

/-! ## The assembler (R116, R117) -/

/-- V-W1. -/
theorem test_assemble_wrp :
    assembleLine ['W', 'R', 'P', ' ', 'R', 'A', 'T', 'E', ',', ' ', '4', '4', '1', '0', '0', '.', '0'] =
      some [0x01000200#32, 0x472C4400#32] := by decide +kernel
/-- R117 and `;` comments. -/
theorem test_assemble_pseudo :
    assembleLine ['W', 'R', 'R', 'E', 'S', ' ', '0', '.', '0', ' ', ';', 'x'] = some [0x01000100#32, 0#32] := by decide +kernel
/-- V-C1. -/
theorem test_assemble_calc :
    assembleLine ['C', 'A', 'L', 'C', ' ', '0', ',', '0', '.', '5', ',', '0', '.', '0'] =
      some [0x12000000#32, 0#32, 0x3FE00000#32, 0#32, 0#32] := by decide +kernel
/-- R116: a channel above 255 is rejected. -/
theorem test_assemble_rejects : assembleLine ['R', 'E', 'S', 'E', 'T', ' ', '2', '5', '6'] = none := by decide +kernel

/-! ## Witnesses: for each statement with hypotheses, something that meets all of them -/

/-- Three agents that can move: a RESET waits on port R, a WRP on port D, and the host has a read to make. -/
def busy : State :=
  ((bench.setPort .R { bench.portR with fifo := [0x11000000#32] }).setPort .D
    { bench.portD with fifo := [0x01000000#32, 0#32] }).setHost [.regRead 0x20 4]

/-- Port R halted by an illegal header, three words in its FIFO. -/
def halted : State := (bench.loadAlone [0x13000000#32, 1#32, 2#32]).raise .illegalOpcode

/-- The preamble of the bench's parameters (V-P1's `LAST_F`, `LAST_R`). -/
theorem test_preamble_bench : preamble bench.params = .ok (0x3FA7384EF2A605CE#64, 0) := by decide +kernel

/-- A PROCESS of channel 0 with the bench's parameters completes, whatever is drawn or recomputed on the way. -/
theorem process_completes (u : State) (src dst n : Word) (hcur : u.cur = .R) (hn : u.nch = 4) (hp : u.params = bench.params)
    (hg : u.cfg = bench.cfg) (he : u.portR.err = false) (h0 : n.toNat ≠ 0) (hs : src.toNat + n.toNat ≤ 1024)
    (hd : dst.toNat + n.toNat ≤ 1024) : ((after (exec (.process 0 false src dst n) u)).portState .R).err = false := by
  have hr : commandRule (.process 0 false src dst n) u =
      .done (State.samples 0 src.toNat dst.toNat n.toNat (u.recompute 0 0x3FA7384EF2A605CE#64 0)) := by
    have h1 : (u.inRange src.toNat n.toNat && u.inRange dst.toNat n.toNat) = true := by
      simp only [State.inRange, hg, Bool.and_eq_true, decide_eq_true_eq]
      exact ⟨hs, hd⟩
    simp only [commandRule, processRule, h0, h1, hp, test_preamble_bench, if_false, Bool.not_true, Bool.false_eq_true]
  have ho := (State.recompute_sameOutside u 0 0x3FA7384EF2A605CE#64 0).trans
    (State.samples_sameOutside n.toNat 0 src.toNat dst.toNat (u.recompute 0 0x3FA7384EF2A605CE#64 0))
  rw [exec_eq_issue, after, State.issue_done (headerFault_none (show Op.process ≠ .wrp by decide) (.inl hcur)
    (by rw [hn]; show (0 : BitVec 8).toNat < 4; decide)) hr]
  generalize State.samples 0 src.toNat dst.toNat n.toNat (u.recompute 0 0x3FA7384EF2A605CE#64 0) = w at ho ⊢
  have hw : w.cur = .R := ho.cur.trans hcur
  have h := State.portState_complete_cur w (Instr.process 0 false src dst n).header.op.len
  rw [hw] at h
  rw [h]
  exact (congrArg PortState.err ho.portR).trans he

/-- O2: the words of a command and a word behind it. -/
theorem test_witness_EncodeInvertsDecode : decode [0x11010000#32, 9#32] = .ok (.reset 1) [9#32] := by decide

/-- O4: the bounds of R109's list, the legal opcodes beside them, and a port that finds an illegal header. -/
theorem test_witness_IllegalOpcodeRaised :
    ([0x00, 0x02, 0x0F, 0x13, 0x1F, 0x23, 0xFF].all fun o => (Op.ofCode (BitVec.ofNat 8 o)).isNone) = true ∧
    ([0x01, 0x10, 0x12, 0x20, 0x22].all fun o => (Op.ofCode (BitVec.ofNat 8 o)).isSome) = true ∧
    illegalOpcode ((0x13FFFFFF#32).extractLsb' 24 8).toNat ∧ illegalOpcode ((0#32).extractLsb' 24 8).toNat ∧
    (bench.loadAlone [0x13FFFFFF#32]).ready = [.port .R] ∧ (bench.loadAlone [0x13FFFFFF#32]).portR.job = none := by
  unfold illegalOpcode; decide +kernel

/-- O5: `FLAGS` = 1 in a RESET. -/
theorem test_witness_ReservedFieldRaised :
    (bench.loadAlone [0x11000001#32]).ready = [.port .R] ∧ (bench.loadAlone [0x11000001#32]).portR.job = none ∧
    (0x11000001#32).extractLsb' 24 8 = Op.reset.code ∧ 0x11000001#32 &&& headerMask .reset ≠ headerMatch .reset := by decide +kernel

/-- O8: a command waiting, and a command in progress. -/
theorem test_witness_StepRunsDecodedCommand :
    ((bench.loadAlone [0x11000000#32]).ready = [.port .R] ∧ (bench.loadAlone [0x11000000#32]).portR.job = none ∧
      decode (bench.loadAlone [0x11000000#32]).portR.fifo = .ok (.reset 0) []) ∧
    ((impulse.setJob (.sampleIn 0 0 16 5)).ready = [.port .R] ∧
      ((impulse.setJob (.sampleIn 0 0 16 5)).portState .R).job = some (.sampleIn 0 0 16 5)) := by decide +kernel

/-- O9: a WRP adds nothing; a CALC in its domain and a PROCESS from a cleared cache compute coefficients, a PROCESS whose cache holds
does not; the sixth step of a coefficient write, alone on its port; a power-on reset. -/
theorem test_witness_NcoefCounts :
    (∃ t, exec (.wrp 0 0) bench = .next t) ∧ ¬computesCoefficients (.wrp 0 0) bench ∧
    (∃ t, exec (.calcCoef 0 half 0) bench = .next t) ∧ computesCoefficients (.calcCoef 0 half 0) bench ∧
    computesCoefficients (.process 3 false 0 16 5) bench ∧ ¬computesCoefficients (.process 0 false 0 16 5) bench ∧
    (let s := bench.setJob (.coefWrite 0 [] .finish)
     s.ready = [.port .R] ∧ (s.portState .R).job = some (.coefWrite 0 [] .finish) ∧ ∃ t, step s = .next t ∧ t.ncoef = bench.ncoef + 1) ∧
    (∃ t, step ((bench.setNcoef 7).setHost [.powerOn]) = .next t ∧ t.ncoef = 0) := by
  refine ⟨⟨_, rfl⟩, id, ⟨_, exec_after _ _⟩, by unfold computesCoefficients; decide +kernel, ?_, ?_,
    ⟨by decide +kernel, by decide +kernel, _, rfl, rfl⟩, ⟨_, rfl, rfl⟩⟩
  · exact ⟨rfl, by decide, by decide, by decide, by decide, _, _, test_preamble_bench, by decide +kernel⟩
  · rintro ⟨-, -, -, -, -, f, res, h, hn⟩
    rw [test_preamble_bench] at h
    cases h
    exact hn (by decide +kernel)

/-- O10: three agents that can move: port R and port D with a whole command each, and the host; a port whose command is in progress;
a port that finds a header error, its operand words missing or not. -/
theorem test_witness_StepInterleavesAtomicSteps :
    busy.ready = [.port .R, .port .D, .host] ∧ (busy.setJob (.sampleIn 0 0 16 5)).ready = [.port .R, .port .D, .host] ∧
    (busy.setPort .R { busy.portR with fifo := [0x13000000#32] }).ready = [.port .R, .port .D, .host] ∧
    (busy.setPort .R { busy.portR with fifo := [0x12040000#32] }).ready = [.port .R, .port .D, .host] := by decide +kernel

/-- O11: CALC with one of its four operand words, alone. -/
theorem test_witness_TruncatedCommandWaits :
    let s := bench.loadAlone [0x12000000#32, 0#32]
    s.portR.job = none ∧ decode s.portR.fifo = .short ⟨.calcCoef, 0, 0, false⟩ ∧
      headerFault .R s.nch ⟨.calcCoef, 0, 0, false⟩ = none ∧ s.ready = [] ∧ s.portR.err = false ∧ s.portD.err = false := by
  decide +kernel

/-- O12: a channel that does not exist, with no operand words. -/
theorem test_witness_HeaderErrorNeverWaits :
    let s := bench.loadAlone [0x12040000#32]
    s.portR.err = false ∧ s.portR.job = none ∧ decode s.portR.fifo = .short ⟨.calcCoef, 4, 0, false⟩ ∧
      headerFault .R s.nch ⟨.calcCoef, 4, 0, false⟩ = some .badChannel ∧ s.ready = [.port .R] := by decide +kernel

/-- O14, O15, O16: a port with no error and no command in progress, and a command that completes. -/
theorem test_witness_AtomicStepsReachWholeCommand :
    (bench.portState bench.cur).job = none ∧ (bench.portState bench.cur).err = false ∧
      ∃ t, exec (.rdcoef 0 100) bench = .next t := ⟨rfl, rfl, _, rfl⟩

/-- O15: a command that ends in an error; a CURVE that does at an entry, and one before its entries. -/
theorem test_witness_ErrorsArePrecise :
    (∀ ch a n, Instr.eval 2 0 0 ≠ .curve ch a n) ∧ (bench.portState bench.cur).err = false ∧
      errorR (.eval 2 0 0) bench = (true, .degenerate) ∧ errorR (.curve 0 400 2) table = (true, .domain) ∧
      (allChecks table (.curve 0 400 2)).any (·.1) = false ∧
      (true, ErrCode.uninitCoef) ∈ allChecks table (.curve 3 400 2) ∧ errorR (.curve 3 400 2) table = (true, .uninitCoef) :=
  ⟨by simp, rfl, by decide +kernel, by decide +kernel, by decide +kernel, by decide +kernel, by decide +kernel⟩

/-- O16: a command that meets none of the conditions, and one that meets several. -/
theorem test_witness_FirstErrorReported :
    (allChecks bench (.eval 0 0 0)).find? (·.1) = none ∧
    (allChecks fresh (.eval 0 0 1024)).find? (·.1) = some (true, .addrRange) := by decide +kernel

/-- O17: a halted port R; the other port goes on. -/
theorem test_witness_HaltedPortFrozen :
    (halted.portState .R).err = true ∧ (halted.setPort .D { halted.portD with fifo := [0x01000000#32, 0#32] }).ready = [.port .D] ∧
    (halted.setHost [.regWrite 0x08 4 1]).ready = [.host] ∧ (∃ t, step (halted.setHost [.regWrite 0x08 4 1]) = .next t) ∧
    (∃ t, step (halted.setHost [.powerOn]) = .next t) := by
  refine ⟨rfl, by decide +kernel, by decide +kernel, ⟨_, rfl⟩, ⟨_, rfl⟩⟩

/-- O18: the clear of a halted port. -/
theorem test_witness_ErrorClearFlushesFifo :
    (halted.portState .R).err = true ∧ (1#32).getLsbD 0 = true ∧ halted.portR.fifo.length = 3 := by decide

/-- O19: bit 0 = 0 on a halted port; no error with bit 0 = 1. -/
theorem test_witness_StatusWriteWithoutEffect :
    ((halted.portState .R).err = false ∨ (2#32).getLsbD 0 = false) ∧ ((bench.portState .R).err = false ∨ (1#32).getLsbD 0 = false) := by
  decide

/-- O20, O31, O55, O57, O59: a state that has the invariants and takes a step. -/
theorem test_witness_Invariants :
    bench.portR.errorOk = true ∧ bench.portD.errorOk = true ∧ halted.portR.errorOk = true ∧
    Memory.wf impulse.mem = true ∧ bench.portD.readsOnly = true ∧ (∀ k ∈ bench.kernels, Kernel.cacheOk k = true) ∧
    bench.portR.fifo.length ≤ bench.cfg.fifoDepth ∧ bench.portD.fifo.length ≤ bench.cfg.fifoDepth ∧
    (∃ t, step (impulse.loadAlone [0x11000000#32]) = .next t) ∧ (∃ t, step (bench.setHost [.powerOn]) = .next t) :=
  ⟨by decide, by decide, by decide, by decide, by decide, by decide, by decide, by decide, ⟨_, rfl⟩, ⟨_, rfl⟩⟩

/-- O31: memory of whole words. -/
theorem test_witness_MemoryFormInvariant :
    Memory.wf (bench.memWrite 3 5).mem = true ∧ wholeWords (bench.memWrite 3 5).mem := by
  refine ⟨by decide, fun a k hk => ?_⟩
  have h : (bench.memWrite 3 5).mem = [(12, 5), (13, 0), (14, 0), (15, 0)] := by decide
  rw [h]
  by_cases ha : a = 3
  · subst ha
    have : k = 0 ∨ k = 1 ∨ k = 2 ∨ k = 3 := by omega
    rcases this with rfl | rfl | rfl | rfl <;> rfl
  · have e : ∀ k, k < 4 → memByte? [(12, 5), (13, 0), (14, 0), (15, 0)] (4 * a + k) = none := by
      intro k hk
      simp only [memByte?]
      rw [if_neg (by omega), if_neg (by omega), if_neg (by omega), if_neg (by omega)]
    have h0 := e 0 (by omega)
    rw [Nat.add_zero] at h0
    rw [e k hk, h0]

/-- A push of a word to port R as the host's next move, with `k` words in that port's FIFO. -/
def pushing (k : Nat) : State :=
  (bench.setPort .R { bench.portR with fifo := List.replicate k 0x01000000#32 }).setHost [.regWrite 0x00 4 7]

/-- O21: `FIFO_DEPTH` is 8: with seven words the push is made, at eight it stalls; a halted port with a full FIFO discards it. -/
theorem test_witness_PushAppendsOrDiscards :
    (pushing 7).host = .regWrite (commandOffset .R) 4 7 :: [] ∧ (pushing 7).portR.err = false ∧
    (pushing 7).portR.fifo.length < (pushing 7).cfg.fifoDepth ∧ .host ∈ (pushing 7).ready ∧
    (after (hostStep (pushing 7))).portR.fifo.length = 8 ∧
    (pushing 8).portR.err = false ∧ (pushing 8).cfg.fifoDepth ≤ (pushing 8).portR.fifo.length ∧ .host ∉ (pushing 8).ready ∧
    ((pushing 8).raise .badSelect).portR.err = true ∧ .host ∈ ((pushing 8).raise .badSelect).ready ∧
    (after (hostStep ((pushing 8).raise .badSelect))).portR.fifo.length = 8 := by decide +kernel

/-- O24: the machine of the test configuration. -/
theorem test_witness_ConfigurationRegistersRead :
    bench.nch ≤ 256 ∧ 1 ≤ bench.cfg.memWords ∧ bench.cfg.memWords ≤ 2 ^ 32 := by decide

/-- O25: the bounds of the map: 0xFC and 0x2C are in it, 0x100, 0x2A and a halfword access are not. -/
theorem test_witness_RegisterAccessesOfR48 :
    registerAccess 0xFC 4 = true ∧ registerAccess 0x2C 4 = true ∧ registerAccess 0x00 4 = true ∧ registerAccess 0x100 4 = false ∧
    registerAccess 0x2A 4 = false ∧ registerAccess 0x08 2 = false := by decide

/-- O26 (R252): a word that only failed commands of port R use, in its FIFO and completed unseen before them, once the host has read
`STATUS_R`; and the clear, after which the unseen one counts again. -/
theorem test_witness_HostMemoryAccesses_error :
    let s := (evalFailed.setUnseen [(.R, .eval 0 0 202)]).sawError .R
    (s.portState .R).err = true ∧ .R ∈ s.errorsSeen ∧ s.portUses .R 201 = true ∧ s.inUse 201 = false ∧ s.inUse 202 = false ∧
    s.portUses .D 200 = true ∧ s.inUse 200 = true ∧
    (s.clear .R).errorsSeen = [] ∧ (s.clear .R).inUse 201 = false ∧ (s.clear .R).inUse 202 = true := by decide +kernel

/-- O26: the last word of `MEM` and the first beyond it; a byte access; a word in no use; a word written and read, and one not written;
and a word that a pushed command uses, up to its last word and not beyond. -/
theorem test_witness_HostMemoryAccesses :
    4092 % 4 = 0 ∧ 4092 / 4 < bench.cfg.memWords ∧ bench.cfg.memWords ≤ 4096 / 4 ∧ ¬(1 = 4 ∧ 4092 % 4 = 0) ∧
    bench.inUse 1023 = false ∧ memWord? (bench.memWrite 1023 7).mem 1023 = some 7#32 ∧ memWord? bench.mem 1023 = none ∧
    (bench.loadAlone [0x20000000#32, 0#32, 1023#32]).inUse 1023 = true ∧
    [99, 100, 109, 110].map (fun x => (bench.loadAlone [0x22000000#32, 100#32]).inUse x) = [false, true, true, false] ∧
    (bench.setUnseen [(.D, .curve 0 400 2)]).inUse 403 = true ∧ (bench.setUnseen [(.D, .curve 0 400 2)]).inUse 404 = false := by
  decide +kernel

/-- O28: the end of a run, with host reads and writes still to come, and with none; and no end, with a push to come. -/
theorem test_witness_EndOfRun :
    bench.portR.errorOk = true ∧ bench.portD.errorOk = true ∧ bench.isFinal = true ∧
    (bench.setHost [.memRead 800 4, .memWrite 800 4 5]).isFinal = true ∧
    (∃ t, step (bench.setHost [.regRead 0x08 4, .powerOn]) = .next t) ∧ (bench.setHost [.memRead 800 4, .regWrite 0x04 4 0]).isFinal = false :=
  ⟨by decide, by decide, by decide, by decide, ⟨_, rfl⟩, by decide⟩

/-- O29: a word beside the written one, written before; and one not written. -/
theorem test_witness_MemoryReadsLastWrite :
    memWord? impulse.mem 1 = some 0#32 ∧ memWord? impulse.mem 9 = none ∧ (1 : Nat) ≠ 2 ∧ (9 : Nat) ≠ 2 := by decide

/-- O30: a word that nothing has written. -/
theorem test_witness_UnwrittenReadIsFreshDraw : memWord? bench.mem 5 = none := by decide

/-- O33: a value that rounds to a finite pattern, ties among them, and one that overflows; sums, products, quotients and roots that are zero,
rounded, infinite and NaN. -/
theorem test_witness_RoundingIsToNearestEven :
    binary32.roundMag 1 (-149) = 1 ∧ binary32.roundMag (2 ^ 24 + 1) 0 = 0x4B800000 ∧ binary32.roundMag (2 ^ 24 + 3) 0 = 0x4B800002 ∧
    binary32.roundMag (2 ^ 25 - 1) 103 = binary32.infBits ∧ binary32.roundMag (2 ^ 25 - 2) 103 = binary32.infBits - 1 ∧
    patternFinite binary64 one.toNat ∧ patternInfinite binary64 0xFFF0000000000000 ∧ patternNaN binary64 0x7FF0000000000001 ∧
    patternValue binary64 half.toNat = 1 / 2 ∧ patternValue binary64 minusTwenty.toNat = -20 ∧ patternValue binary64 1 ≠ 0 ∧
    add64 one minusOne = 0 ∧ add64 0x8000000000000000#64 0x8000000000000000#64 = 0x8000000000000000#64 ∧
    div64 one 0x8000000000000000#64 = 0xFFF0000000000000#64 ∧ sqrt64 four = two ∧ mul64 1 half = 0 := by
  unfold patternFinite patternInfinite patternNaN; decide +kernel

/-- O34, O36: a number, and a NaN, in both formats. -/
theorem test_witness_To64IsExact :
    isNaN32 0x00000001#32 = false ∧ isNaN32 0x7F800001#32 = true ∧ isNaN32 0x7FC00000#32 = true ∧ (0x7FC00000#32).getLsbD 22 = true ∧
    isNaN64 0xFFF8000000000000#64 = true ∧ (0xFFF8000000000000#64).getLsbD 51 = true ∧ isNaN64 0x7FF0000000000000#64 = false := by
  decide +kernel

/-- O35: each of the three relations between two numbers, an infinity above and below, and a NaN. -/
theorem test_witness_IeeeComparisons :
    lt64 minusOne one = true ∧ lt64 one minusOne = false ∧ eq64 0 0x8000000000000000#64 = true ∧
    lt64 0x7FE0000000000000#64 0x7FF0000000000000#64 = true ∧ lt64 0xFFF0000000000000#64 minusOne = true ∧
    patternExtended binary64 minusOne.toNat < patternExtended binary64 one.toNat ∧
    patternExtended binary64 0xFFF0000000000000 < patternExtended binary64 minusOne.toNat ∧
    isNaN64 0x7FF8000000000001#64 = true ∧ isNaN64 one = false := by decide +kernel

/-- O37: a finite argument, and a NaN. -/
theorem test_witness_TranscendentalProperties : isFinite64 half = true ∧ isNaN64 0x7FF8000000000000#64 = true := by decide +kernel

/-- O39: `c3` a number, by P2 at `f` = +0.0 and `res` = +0.0; `c3` a NaN, for a NaN resonance. -/
theorem test_witness_CoefficientSymmetry :
    isNaN64 (coefC3 (pow10 (exponent .div20 0)) (sin64 (mul64 pi64 0)) (cos64 (mul64 pi64 0))) = false ∧
    (∀ s c, isNaN64 (coefC3 0x7FF8000000000000#64 s c) = true → True) ∧ isNaN64 (coefC3 0x7FF8000000000000#64 one one) = true := by
  refine ⟨by decide +kernel, fun _ _ _ => trivial, by decide +kernel⟩

/-- O40: CALC's domain at its top and at its bottom (V-C5, V-C6), on a channel that exists. -/
theorem test_witness_CalcWritesCoefficients :
    bench.cur = .R ∧ (3 : BitVec 8).toNat < bench.nch ∧ (lt64 0 one && le64 one one && isFinite64 0) = true ∧
    (lt64 0 1 && le64 1 one && isFinite64 0x7FEFFFFFFFFFFFFF#64) = true := by decide +kernel

/-- O41: the last ten words of `MEM`. -/
theorem test_witness_RdcoefCopiesCoefficients :
    (0 : BitVec 8).toNat < bench.nch ∧ (1014#32).toNat + 10 ≤ bench.cfg.memWords ∧ (bench.kernel 0).valid = true := by decide

/-- O42, O44: port R and the last channel. -/
theorem test_witness_ResetClearsChannel : bench.cur = .R ∧ (3 : BitVec 8).toNat < bench.nch := by decide

/-- O45: accepted parameters, below, within and above the resonance's range. -/
theorem test_witness_PreambleClampsIntoRange :
    parametersAccepted bench.params ∧ parametersAccepted { bench.params with res := 0xC20C0000#32 } ∧
    lt64 (to64 0xC20C0000#32) minusTwenty = true ∧ lt64 twenty (to64 0x7F800000#32) = true ∧
    le64 minusTwenty (to64 0x41A00000#32) = true ∧ le64 (to64 0x41A00000#32) twenty = true := by
  unfold parametersAccepted; decide +kernel

/-- O46: a buffer that ends at the last word of `MEM`, and both branches of the recompute decision. -/
theorem test_witness_ProcessCompletes :
    bench.cur = .R ∧ (0 : BitVec 8).toNat < bench.nch ∧ 0 < (5#32).toNat ∧ (1019#32).toNat + (5#32).toNat ≤ bench.cfg.memWords ∧
    (0#32).toNat + (5#32).toNat ≤ bench.cfg.memWords ∧ parametersAccepted bench.params ∧
    cacheDiffers (bench.kernel 0) 0x3FA7384EF2A605CE#64 0 = false ∧ cacheDiffers (bench.kernel 3) 0x3FA7384EF2A605CE#64 0 = true := by
  unfold parametersAccepted; decide +kernel

/-- O47: in place, clear above, and inside the source (V-P7); no NaN among the inputs and the outputs; a NaN input, and a NaN in `Y1`. -/
theorem test_witness_ProcessIsTheRecurrence :
    (∃ t, exec (.process 0 false 0 16 2) impulse = .next t ∧ (t.portState .R).err = false) ∧
    (∃ t, exec (.process 0 false 0 0 2) impulse = .next t ∧ (t.portState .R).err = false) ∧
    (∃ t, exec (.process 0 false 0 1 3) impulse = .next t ∧ (t.portState .R).err = false) ∧
    (∃ t, exec (.process 0 false 0 16 2) (impulse.memWrite 1 0x7FC00000#32) = .next t ∧ (t.portState .R).err = false) ∧
    (∀ i, i < 2 → memWord? impulse.mem (0 + i) = [0x3F800000#32, 0#32][i]?) ∧
    (∀ i, i < 2 → memWord? (impulse.memWrite 1 0x7FC00000#32).mem (0 + i) = [0x3F800000#32, 0x7FC00000#32][i]?) ∧
    (filterAll workedKernel.coef 0 0 0 0 [0x3F800000#32, 0#32]).1 = [0x3B9B019E#32, 0x3C9522A5#32] ∧
    [0x3F800000#32, 0#32, 0x3B9B019E#32, 0x3C9522A5#32].map isNaN32 = [false, false, false, false] ∧
    isNaN32 0x7FC00000#32 = true ∧
    isNaN64 (((impulse.setKernel 0 { workedKernel with y1 := 0x7FF8000000000000#64 }).kernel 0).y1) = true := by
  refine ⟨⟨_, exec_after _ _, ?_⟩, ⟨_, exec_after _ _, ?_⟩, ⟨_, exec_after _ _, ?_⟩, ⟨_, exec_after _ _, ?_⟩, ?_⟩
  on_goal 4 =>
    exact process_completes _ 0 16 2 (by decide) (by decide) (by decide) (by decide) (by decide) (by decide) (by decide) (by decide)
  all_goals decide +kernel

/-- O48, O49: a CURVE of one entry whose frequency word nothing has written. -/
theorem test_witness_CurveUnwritten :
    memWord? bench.mem 400 = none ∧ (0 : BitVec 8).toNat < bench.nch ∧ (400#32).toNat + 2 * (1#32).toNat ≤ bench.cfg.memWords ∧
    bench.params.rateValid = true ∧ (bench.kernel 0).valid = true ∧ ∃ t, exec (.curve 0 400 1) bench = .next t :=
  ⟨by decide, by decide, by decide, by decide, by decide, _, exec_after _ _⟩

/-- O36: a coefficient set with two NaNs: the second has the second draw; and a magnitude that is a number. -/
theorem test_witness_WrittenNaNsAreQuiet :
    let c : Coefs := ⟨one, 0x7FF0000000000001#64, half, 0xFFF8000000000000#64, 0⟩
    coefOrder[3]? = some .b1 ∧ (coefOrder.take 3).countP (fun q => isNaN64 (c.get q)) = 1 ∧
    (bench.freshCoefs c).1.a0 = one ∧ (bench.freshCoefs c).2.draws = bench.draws + 2 ∧
    isQuietNaN64 0xFFF8000000000000#64 = true ∧ isQuietNaN32 0x7FC00000#32 = true ∧ isQuietNaN32 0x7F800001#32 = false ∧
    computesCoefficients (.calcCoef 0 half 0) bench ∧
    magnitude (bench.kernel 0).coef (to64 0) (to64 bench.params.rate) = some 0x3F800000#32 := by
  refine ⟨by decide +kernel, by decide +kernel, by decide +kernel, by decide +kernel, by decide +kernel, by decide +kernel,
    by decide +kernel, by unfold computesCoefficients; decide +kernel, by decide +kernel⟩

/-- O48: entry 0 good and entry 1 outside the domain; and entry 0 degenerate. -/
theorem test_witness_CurveKeepsEarlierEntries :
    (memWord? table.mem (400 + 2 * 0) = some 0#32 ∧ memWord? table.mem (400 + 2 * 1) = some 0x7F800000#32 ∧
      responseDomain table.params.rate 0 = true ∧ responseDomain table.params.rate 0x7F800000#32 = false ∧
      magnitude (table.kernel 0).coef (to64 0) (to64 table.params.rate) ≠ none) ∧
    (magnitude (table.kernel 2).coef (to64 0) (to64 table.params.rate) = none ∧ (table.kernel 2).valid = true) ∧
    400 + 2 * 2 ≤ table.cfg.memWords ∧ table.params.rateValid = true ∧ (table.kernel 0).valid = true := by decide +kernel

/-- O49: a table of two entries at 0 Hz; and one of no entries. -/
theorem test_witness_CurveFillsTable :
    let s := bench.memWrites 400 [0#32, 1#32, 0#32, 1#32]
    (0 : BitVec 8).toNat < s.nch ∧ (0 < (2#32).toNat → (400#32).toNat + 2 * (2#32).toNat ≤ s.cfg.memWords ∧ s.params.rateValid = true ∧
      (s.kernel 0).valid = true) ∧
    (∀ i, i < (2#32).toNat → memWord? s.mem ((400#32).toNat + 2 * i) = some 0#32 ∧ responseDomain s.params.rate 0#32 = true ∧
      magnitude (s.kernel 0).coef (to64 0#32) (to64 s.params.rate) ≠ none) := by decide +kernel

/-- O50: the last word of `MEM`, at 0 Hz. -/
theorem test_witness_EvalWritesMagnitude :
    (0 : BitVec 8).toNat < bench.nch ∧ (1023#32).toNat + 1 ≤ bench.cfg.memWords ∧ bench.params.rateValid = true ∧
    (bench.kernel 0).valid = true ∧ isFinite64 (to64 bench.params.rate) = true ∧ lt64 0 (to64 bench.params.rate) = true ∧
    isFinite64 (to64 0) = true ∧ magnitude (bench.kernel 0).coef (to64 0) (to64 bench.params.rate) = some 0x3F800000#32 := by
  decide +kernel

/-- O53: two channels with equal coefficients. -/
theorem test_witness_EqualCoefficientsEqualResponse :
    (bench.kernel 0).coef = (bench.kernel 1).coef ∧ (bench.kernel 0).valid = (bench.kernel 1).valid ∧ (1 : BitVec 8).toNat < bench.nch := by
  decide

/-- O54: each selector. -/
theorem test_witness_WrpStoresParameter : (0 : BitVec 8).toNat ≤ 2 ∧ (1 : BitVec 8).toNat ≤ 2 ∧ (2 : BitVec 8).toNat ≤ 2 := by decide

/-- O55, O56: port D reads coefficients for an RDCOEF while port R is in the middle of writing them on the same channel (R82); both can
move, and port D makes its move. -/
theorem test_witness_PortDNeverTouchesAudio :
    let s := (onD (bench.setJob (.coefWrite 0 (coefTodo workedKernel.coef) .finish))).setJob (.rdRead 0 allCoefRegs noCoefs 100)
    s.portD.readsOnly = true ∧ s.ready = [.port .R, .port .D] ∧ ∃ t, s.portStep .D exec = .next t :=
  ⟨by decide, by decide +kernel, _, rfl⟩

/-- O57: a sample in progress on a channel with valid coefficients, one to read them, and a coefficient write on a channel without; and
a step. -/
theorem test_witness_CacheSentinelInvariant :
    (impulse.setJob (.sampleIn 0 0 16 5)).coefficientsOk ∧ (bench.setJob (.rdRead 1 allCoefRegs noCoefs 100)).coefficientsOk ∧
    (bench.setJob (.coefWrite 3 [] .finish)).coefficientsOk ∧ ¬(bench.setJob (.sampleIn 3 0 16 5)).coefficientsOk ∧
    ∃ t, step (bench.setJob (.coefWrite 3 [] .finish)) = .next t := by
  refine ⟨⟨by decide, ?_⟩, ⟨by decide, ?_⟩, ⟨by decide, ?_⟩, fun h => ?_, _, rfl⟩
  on_goal 4 => exact absurd (h.2 .R _ rfl) (show ¬((bench.kernel 3).valid = true) by decide)
  all_goals
    intro p j h
    cases p
    · cases h; simp only [Job.channelOk]; decide
    · cases h

/-- O58: a filter state of binary64 images (0.5 in `X1`), and a step. -/
theorem test_witness_FilterStateImagesInvariant :
    Kernel.imagesOk { workedKernel with x1 := half, y1 := 0x7FF8000000000000#64 } ∧ ∃ t, step (bench.loadAlone [0x11000000#32]) = .next t :=
  ⟨⟨.inr ⟨0x3F000000#32, by decide +kernel⟩, .inr ⟨0, by decide +kernel⟩, .inl (by decide +kernel), .inr ⟨0, by decide +kernel⟩⟩, _, rfl⟩

/-- O60: a channel that exists; and a read of the one register left takes it as the channel holds it. -/
theorem test_witness_CoefficientWriteSteps :
    (3 : BitVec 8).toNat < bench.nch ∧
    ((stepJob (.rdRead 0 [.b1] noCoefs 100) bench).portState .R).job =
      some (.rdRead 0 [] { noCoefs with b1 := 0xBFFD93718098CA98#64 } 100) := by
  refine ⟨by decide, ?_⟩
  simp [stepJob, stepCoefRead, State.choose, Nat.mod_one]
  decide

/-- O43: RESET, an empty PROCESS and a PROCESS complete, one after another, on port R; the cache stays cleared between them. -/
theorem test_witness_ResetForcesRecompute :
    ∃ t u v, exec (.reset 0) bench = .next t ∧ exec (.process 0 false 0 0 0) t = .next u ∧ cacheCleared 0 t ∧ cacheCleared 0 u ∧
      (u.portState u.cur).err = false ∧ exec (.process 0 false 0 16 1) u = .next v ∧ (v.portState u.cur).err = false := by
  refine ⟨_, _, _, exec_after _ _, exec_after _ _, by unfold cacheCleared; decide +kernel, by unfold cacheCleared; decide +kernel,
    by decide +kernel, exec_after _ _, ?_⟩
  exact process_completes _ 0 16 1 (by decide +kernel) (by decide +kernel) (by decide +kernel) (by decide +kernel) (by decide +kernel)
    (by decide) (by decide) (by decide)

end Sys2Proof.Tests
end

section
/-! PROOFS. The layout of a pattern (R4): its sign, its magnitude bits, and the value these have. -/

namespace Sys2Proof.Machine

/-! ## The layout of a pattern (R4) -/

/-- What the proofs about a format need of its widths. -/
structure FloatFmt.Proper (F : FloatFmt) : Prop where
  two_le_ebits : 2 ≤ F.ebits
  one_le_fbits : 1 ≤ F.fbits
  fbits_add_two_le : F.fbits + 2 ≤ 2 ^ (F.ebits - 1)

theorem binary32_proper : binary32.Proper := ⟨by decide, by decide, by decide⟩
theorem binary64_proper : binary64.Proper := ⟨by decide, by decide, by decide⟩

/-- The sign of a pattern as `unpack` reads it. -/
def FloatFmt.negative (F : FloatFmt) (b : Nat) : Bool := b / F.signBit % 2 == 1

/-- The value of what `unpack` answers; 0 where it is no number. -/
def FloatVal.value : FloatVal → ℚ
  | .fin s m e => (-1) ^ s.toNat * (m * 2 ^ e)
  | .inf _ => 0
  | .nan => 0

@[simp] theorem FloatVal.value_fin (s : Bool) (m : Nat) (e : Int) :
    (FloatVal.fin s m e).value = (-1) ^ s.toNat * (m * 2 ^ e) := rfl

theorem FloatFmt.signField_iff (F : FloatFmt) (b : Nat) : signField F b ↔ F.negative b = true := by
  simp [signField, FloatFmt.negative, FloatFmt.signBit]

theorem FloatFmt.negative_toNat (F : FloatFmt) (b : Nat) : (F.negative b).toNat = b / F.signBit % 2 := by
  rcases Nat.mod_two_eq_zero_or_one (b / F.signBit) with h | h <;> simp [FloatFmt.negative, h]

theorem pattern_cases (F : FloatFmt) (b : Nat) : patternFinite F b ∨ patternInfinite F b ∨ patternNaN F b := by
  unfold patternFinite patternInfinite patternNaN
  tauto

theorem FloatFmt.unpack_nan {F : FloatFmt} {b : Nat} (h : patternNaN F b) : F.unpack b = .nan := by
  obtain ⟨he, hf⟩ := h
  simp only [exponentField, fractionField] at he hf
  simp [FloatFmt.unpack, he, hf]

theorem FloatFmt.unpack_inf {F : FloatFmt} {b : Nat} (h : patternInfinite F b) : F.unpack b = .inf (F.negative b) := by
  obtain ⟨he, hf⟩ := h
  simp only [exponentField, fractionField] at he hf
  simp [FloatFmt.unpack, he, hf, FloatFmt.negative]

/-- A finite pattern unpacks to its value in R4's layout, with a significand of at most `fbits + 1` bits. -/
theorem FloatFmt.unpack_fin {F : FloatFmt} {b : Nat} (h : patternFinite F b) :
    ∃ m e, F.unpack b = .fin (F.negative b) m e ∧ m < 2 ^ (F.fbits + 1) ∧ (F.emin ≤ e ∧ e ≤ F.emin + (2 ^ F.ebits - 3 : ℕ)) ∧
      patternValue F b = (F.unpack b).value := by
  have hfr : b % 2 ^ F.fbits < 2 ^ F.fbits := Nat.mod_lt _ (by positivity)
  have hs : (-1 : ℚ) ^ (b / 2 ^ (F.ebits + F.fbits) % 2) = (-1) ^ (F.negative b).toNat := by
    rw [F.negative_toNat]; rfl
  simp only [patternFinite, exponentField] at h
  have hex : b / 2 ^ F.fbits % 2 ^ F.ebits < 2 ^ F.ebits := Nat.mod_lt _ (by positivity)
  by_cases h0 : b / 2 ^ F.fbits % 2 ^ F.ebits = 0
  · have hu : F.unpack b = .fin (F.negative b) (b % 2 ^ F.fbits) F.emin := by
      simp only [FloatFmt.unpack, if_neg h, if_pos h0]; rfl
    refine ⟨_, _, hu, by omega, ⟨le_rfl, by omega⟩, ?_⟩
    rw [hu, FloatVal.value_fin, patternValue, hs, exponentField, fractionField, if_pos h0]
    congr 3
    simp only [FloatFmt.emin]; ring
  · have hu : F.unpack b = .fin (F.negative b) (2 ^ F.fbits + b % 2 ^ F.fbits)
        ((b / 2 ^ F.fbits % 2 ^ F.ebits : ℕ) - 1 + F.emin) := by
      simp only [FloatFmt.unpack, if_neg h, if_neg h0]; rfl
    refine ⟨_, _, hu, by omega, ⟨by omega, by omega⟩, ?_⟩
    rw [hu, FloatVal.value_fin, patternValue, hs, exponentField, fractionField, if_neg h0]
    congr 3
    simp only [FloatFmt.emin]; ring

/-! ## Magnitudes in units of the last place of the subnormals -/

/-- The value of the magnitude bits `n` in units of `2 ^ emin`, read as if the exponent had no largest value. -/
def FloatFmt.units (F : FloatFmt) (n : Nat) : Nat :=
  if n / 2 ^ F.fbits = 0 then n % 2 ^ F.fbits
  else (2 ^ F.fbits + n % 2 ^ F.fbits) * 2 ^ (n / 2 ^ F.fbits - 1)

/-- A significand `sig` in place `k`: the carry out of the fraction runs into the exponent. -/
theorem FloatFmt.units_place (F : FloatFmt) {k sig : Nat} (hk : k = 0 ∨ 2 ^ F.fbits ≤ sig) (hs : sig ≤ 2 ^ (F.fbits + 1)) :
    F.units (k * 2 ^ F.fbits + sig) = sig * 2 ^ k := by
  have hp : 0 < 2 ^ F.fbits := by positivity
  have key : ∀ j r, r < 2 ^ F.fbits → (j * 2 ^ F.fbits + r) / 2 ^ F.fbits = j ∧ (j * 2 ^ F.fbits + r) % 2 ^ F.fbits = r := by
    intro j r hr
    rw [Nat.add_comm, Nat.add_mul_div_right _ _ hp, Nat.add_mul_mod_self_right, Nat.div_eq_of_lt hr, Nat.mod_eq_of_lt hr]
    simp
  rcases Nat.lt_or_ge sig (2 ^ F.fbits) with h | h
  · obtain rfl : k = 0 := by omega
    obtain ⟨hd, hm⟩ := key 0 sig h
    simp only [FloatFmt.units, hd, hm]
    simp
  · rcases Nat.lt_or_ge sig (2 ^ (F.fbits + 1)) with h2 | h2
    · obtain ⟨r, rfl⟩ := Nat.exists_eq_add_of_le h
      obtain ⟨hd, hm⟩ := key (k + 1) r (by omega)
      rw [show k * 2 ^ F.fbits + (2 ^ F.fbits + r) = (k + 1) * 2 ^ F.fbits + r by ring]
      simp only [FloatFmt.units, hd, hm]
      simp
    · obtain rfl : sig = 2 ^ (F.fbits + 1) := by omega
      obtain ⟨hd, hm⟩ := key (k + 2) 0 hp
      rw [show k * 2 ^ F.fbits + 2 ^ (F.fbits + 1) = (k + 2) * 2 ^ F.fbits + 0 by ring]
      simp only [FloatFmt.units, hd, hm]
      simp [pow_succ]; ring

/-- Every magnitude is a significand in a place. -/
theorem FloatFmt.exists_place (F : FloatFmt) (n : Nat) :
    ∃ k sig, n = k * 2 ^ F.fbits + sig ∧ (k = 0 ∨ 2 ^ F.fbits ≤ sig) ∧ sig < 2 ^ (F.fbits + 1) := by
  have hm : n % 2 ^ F.fbits < 2 ^ F.fbits := Nat.mod_lt _ (by positivity)
  have hn := Nat.div_add_mod' n (2 ^ F.fbits)
  rcases hE : n / 2 ^ F.fbits with _ | j
  · exact ⟨0, n % 2 ^ F.fbits, by rw [hE] at hn; omega, .inl rfl, by omega⟩
  · refine ⟨j, 2 ^ F.fbits + n % 2 ^ F.fbits, ?_, .inr (by omega), by omega⟩
    rw [hE] at hn
    rw [← Nat.add_assoc, ← Nat.succ_mul, hn]

theorem FloatFmt.units_strictMono (F : FloatFmt) : StrictMono F.units := by
  refine strictMono_nat_of_lt_succ fun n => ?_
  obtain ⟨k, sig, rfl, hk, hs⟩ := F.exists_place n
  rw [Nat.add_assoc, F.units_place hk hs.le, F.units_place (by omega) hs]
  exact Nat.mul_lt_mul_of_pos_right (Nat.lt_succ_self _) (by positivity)

@[simp] theorem FloatFmt.units_zero (F : FloatFmt) : F.units 0 = 0 := by simp [FloatFmt.units]

/-- A significand of at most `fbits + 1` bits times a power of two is some magnitude, exactly. -/
theorem FloatFmt.exists_units_eq (F : FloatFmt) (k : Nat) {m : Nat} (hm : m < 2 ^ (F.fbits + 1)) :
    ∃ n, F.units n = m * 2 ^ k := by
  induction k generalizing m with
  | zero => exact ⟨_, F.units_place (k := 0) (.inl rfl) hm.le⟩
  | succ k ih =>
    rcases Nat.lt_or_ge m (2 ^ F.fbits) with h | h
    · obtain ⟨n, hn⟩ := ih (m := 2 * m) (by rw [Nat.pow_succ]; omega)
      exact ⟨n, by rw [hn, Nat.pow_succ]; ring⟩
    · exact ⟨_, F.units_place (.inr h) hm.le⟩

/-! ## Sign and magnitude of a pattern -/

theorem FloatFmt.magnitude_div (F : FloatFmt) (b : Nat) : b % F.signBit / 2 ^ F.fbits = exponentField F b := by
  rw [FloatFmt.signBit, Nat.add_comm, pow_add, Nat.mod_mul_right_div_self, exponentField]

theorem FloatFmt.magnitude_mod (F : FloatFmt) (b : Nat) : b % F.signBit % 2 ^ F.fbits = fractionField F b :=
  Nat.mod_mod_of_dvd _ (pow_dvd_pow 2 (Nat.le_add_left _ _))

theorem exponentField_lt (F : FloatFmt) (b : Nat) : exponentField F b < 2 ^ F.ebits := Nat.mod_lt _ (by positivity)

theorem FloatFmt.infBits_lt_signBit (F : FloatFmt) : F.infBits < F.signBit := by
  rw [FloatFmt.infBits, FloatFmt.signBit, pow_add]
  exact Nat.mul_lt_mul_of_pos_right (Nat.sub_lt (by positivity) one_pos) (by positivity)

theorem patternFinite_iff (F : FloatFmt) (b : Nat) : patternFinite F b ↔ b % F.signBit < F.infBits := by
  have h := exponentField_lt F b
  rw [FloatFmt.infBits, ← Nat.div_lt_iff_lt_mul (by positivity), F.magnitude_div, patternFinite]
  omega

theorem patternInfinite_iff (F : FloatFmt) (b : Nat) : patternInfinite F b ↔ b % F.signBit = F.infBits := by
  rw [patternInfinite, ← F.magnitude_div, ← F.magnitude_mod, FloatFmt.infBits]
  constructor
  · rintro ⟨hd, hm⟩
    rw [← Nat.div_add_mod' (b % F.signBit) (2 ^ F.fbits), hd, hm, Nat.add_zero]
  · intro h
    rw [h]
    exact ⟨Nat.mul_div_cancel _ (by positivity), Nat.mul_mod_left _ _⟩

theorem patternNaN_iff (F : FloatFmt) (b : Nat) : patternNaN F b ↔ F.infBits < b % F.signBit := by
  have hn : patternNaN F b ↔ ¬ patternFinite F b ∧ ¬ patternInfinite F b := by
    unfold patternFinite patternInfinite patternNaN; tauto
  rw [hn, patternFinite_iff, patternInfinite_iff]
  omega

theorem FloatFmt.withSign_mod {F : FloatFmt} {n : Nat} (neg : Bool) (hn : n < F.signBit) : F.withSign neg n % F.signBit = n := by
  cases neg <;> simp [FloatFmt.withSign, Nat.mod_eq_of_lt hn]

theorem FloatFmt.negative_withSign {F : FloatFmt} {n : Nat} (neg : Bool) (hn : n < F.signBit) :
    F.negative (F.withSign neg n) = neg := by
  have hp : 0 < F.signBit := by unfold FloatFmt.signBit; positivity
  cases neg <;> simp [FloatFmt.withSign, FloatFmt.negative, Nat.add_div_left, Nat.div_eq_of_lt hn, hp]

theorem FloatFmt.withSign_lt {F : FloatFmt} {n : Nat} (neg : Bool) (hn : n < F.signBit) : F.withSign neg n < 2 * F.signBit := by
  cases neg <;> simp [FloatFmt.withSign] <;> omega

/-- A pattern is its sign and its magnitude bits. -/
theorem FloatFmt.withSign_negative {F : FloatFmt} {b : Nat} (hb : b < 2 * F.signBit) :
    F.withSign (F.negative b) (b % F.signBit) = b := by
  have hb' := Nat.div_add_mod b F.signBit
  have hq : b / F.signBit = 0 ∨ b / F.signBit = 1 :=
    Nat.le_one_iff_eq_zero_or_eq_one.1 (Nat.le_of_lt_succ (Nat.div_lt_of_lt_mul (by omega)))
  rcases hq with h | h <;> rw [h] at hb' <;> simp [FloatFmt.withSign, FloatFmt.negative, h]
  · rwa [Nat.mul_zero, Nat.zero_add] at hb'
  · rwa [Nat.mul_one] at hb'

/-- The value of a pattern, its magnitude in units. -/
theorem patternValue_eq_units (F : FloatFmt) (b : Nat) :
    patternValue F b = (-1) ^ (F.negative b).toNat * (F.units (b % F.signBit) * 2 ^ F.emin) := by
  have he : (1 - (2 ^ (F.ebits - 1) - 1) - F.fbits : ℤ) = F.emin := by simp only [FloatFmt.emin]; ring
  rw [patternValue, F.negative_toNat, FloatFmt.units, F.magnitude_div, F.magnitude_mod]
  congr 1
  by_cases h0 : exponentField F b = 0
  · rw [if_pos h0, if_pos h0, he]
  · have hx : (exponentField F b - (2 ^ (F.ebits - 1) - 1) - F.fbits : ℤ) = (exponentField F b - 1 : ℕ) + F.emin := by
      rw [← he]; omega
    rw [if_neg h0, if_neg h0, hx, zpow_add₀ two_ne_zero, zpow_natCast]
    push_cast
    ring

/-- The value of magnitude bits below infinity. -/
theorem magnitudeValue_eq_units {F : FloatFmt} {n : Nat} (hn : n < F.infBits) :
    magnitudeValue F n = F.units n * 2 ^ F.emin := by
  have hs : n < F.signBit := hn.trans F.infBits_lt_signBit
  have hm : n % F.signBit = n := Nat.mod_eq_of_lt hs
  have hneg : F.negative n = false := by simp [FloatFmt.negative, Nat.div_eq_of_lt hs]
  obtain ⟨m, e, hu, -, -, hv⟩ := FloatFmt.unpack_fin ((patternFinite_iff F n).2 (hm.symm ▸ hn))
  rw [patternValue_eq_units, hu, FloatVal.value_fin, hneg, hm] at hv
  rw [magnitudeValue, hu]
  simpa using hv.symm

end Sys2Proof.Machine
end

section
/-! PROOFS. Rounding to nearest with ties to even (R5, R8): which magnitude is nearest, and the rounding of a significand. -/

namespace Sys2Proof.Machine

/-! ## Rounding to nearest, ties to even (R5, R8) -/

/-- `y`, in units, lies not above the middle between the magnitude `n` and the next, and on it only if `n` is even. -/
def FloatFmt.belowNext (F : FloatFmt) (y : ℝ) (n : Nat) : Prop :=
  2 * y ≤ F.units n + F.units (n + 1) ∧ (2 * y = F.units n + F.units (n + 1) → Even n)

/-- `y`, in units, lies not below the middle between the magnitude `n` and the one before, and on it only if `n` is even. -/
def FloatFmt.abovePrev (F : FloatFmt) (y : ℝ) (n : Nat) : Prop :=
  ∀ p, n = p + 1 → F.units p + F.units n ≤ 2 * y ∧ (2 * y = F.units p + F.units n → Even n)

/-- `n` is the magnitude of `y`, in units, rounded to nearest with ties to even and to infinity beyond the largest number. -/
structure FloatFmt.IsNearest (F : FloatFmt) (y : ℝ) (n : Nat) : Prop where
  le_inf : n ≤ F.infBits
  below : n < F.infBits → F.belowNext y n
  above : F.abovePrev y n

theorem FloatFmt.units_lt_cast (F : FloatFmt) {i j : Nat} (h : i < j) : (F.units i : ℝ) < F.units j := by
  exact_mod_cast F.units_strictMono h

theorem FloatFmt.units_le_cast (F : FloatFmt) {i j : Nat} (h : i ≤ j) : (F.units i : ℝ) ≤ F.units j := by
  exact_mod_cast F.units_strictMono.monotone h

theorem FloatFmt.lt_of_units_lt_cast {F : FloatFmt} {i j : Nat} (h : (F.units i : ℝ) < F.units j) : i < j :=
  F.units_strictMono.lt_iff_lt.1 (by exact_mod_cast h)

theorem FloatFmt.Proper.even_infBits {F : FloatFmt} (hF : F.Proper) : Even F.infBits :=
  Even.mul_left ((Nat.even_pow.2 ⟨even_two, by have := hF.one_le_fbits; omega⟩)) _

theorem FloatFmt.Proper.infBits_pos {F : FloatFmt} (hF : F.Proper) : 0 < F.infBits := by
  have : 1 < 2 ^ F.ebits := Nat.one_lt_two_pow (by have := hF.two_le_ebits; omega)
  exact Nat.mul_pos (by omega) (by positivity)

/-- Magnitudes from infinity on become infinity. -/
theorem FloatFmt.IsNearest.of_clamp {F : FloatFmt} (hF : F.Proper) {y : ℝ} {n : Nat} (hb : F.belowNext y n)
    (ha : F.abovePrev y n) : F.IsNearest y (if F.infBits ≤ n then F.infBits else n) := by
  split_ifs with h
  · refine ⟨le_rfl, fun h => absurd h (lt_irrefl _), fun p hp => ⟨?_, fun _ => hF.even_infBits⟩⟩
    obtain ⟨q, rfl⟩ : ∃ q, n = q + 1 := ⟨n - 1, by omega⟩
    linarith [(ha q rfl).1, F.units_le_cast (show p ≤ q by omega), F.units_le_cast h]
  · exact ⟨by omega, fun _ => hb, ha⟩

/-- A number below the middle of `u` and `c` is no farther from `u` than from what lies beyond `c`, and as far only from the middle. -/
theorem abs_sub_le_of_le_mid {y u c w : ℝ} (huc : u < c) (hy : 2 * y ≤ u + c) (hw : c ≤ w) :
    |u - y| ≤ |w - y| ∧ (|u - y| = |w - y| → 2 * y = u + c) := by
  rw [abs_of_nonneg (show 0 ≤ w - y by linarith)]
  rcases abs_cases (u - y) with ⟨h, -⟩ | ⟨h, -⟩ <;> rw [h] <;> constructor <;> intros <;> linarith

/-- A number above the middle of `c` and `u` is no farther from `u` than from what lies beyond `c`, and as far only from the middle. -/
theorem abs_sub_le_of_mid_le {y u c w : ℝ} (huc : c < u) (hy : c + u ≤ 2 * y) (hw : w ≤ c) :
    |u - y| ≤ |w - y| ∧ (|u - y| = |w - y| → 2 * y = c + u) := by
  rw [abs_of_nonpos (show w - y ≤ 0 by linarith)]
  rcases abs_cases (u - y) with ⟨h, -⟩ | ⟨h, -⟩ <;> rw [h] <;> constructor <;> intros <;> linarith

/-- No magnitude is nearer, on either side of zero, and at a tie the nearest one is even. -/
theorem FloatFmt.IsNearest.le_dist {F : FloatFmt} {y : ℝ} {n : Nat} (h : F.IsNearest y n) (hn : n < F.infBits) (hy : 0 ≤ y)
    {w : ℝ} {b : Nat} (hw : |w| = F.units b) :
    |F.units n - y| ≤ |w - y| ∧ (|F.units n - y| = |w - y| → w ≠ F.units n → Even n) := by
  rcases lt_trichotomy w (F.units n) with hlt | rfl | hgt
  · rcases n with _ | p
    · simp only [FloatFmt.units_zero, Nat.cast_zero] at hlt ⊢
      rw [abs_of_nonpos (by linarith), abs_of_nonpos (by linarith)]
      exact ⟨by linarith, fun _ _ => Even.zero⟩
    · obtain ⟨hmid, htie⟩ := h.above p rfl
      have hwp : w ≤ F.units p := by
        rcases le_or_gt w 0 with h0 | h0
        · exact h0.trans (by positivity)
        · rw [abs_of_pos h0] at hw
          rw [hw] at hlt ⊢
          exact F.units_le_cast (Nat.lt_succ_iff.1 (FloatFmt.lt_of_units_lt_cast hlt))
      obtain ⟨hle, hmideq⟩ := abs_sub_le_of_mid_le (F.units_lt_cast (Nat.lt_succ_self p)) hmid hwp
      exact ⟨hle, fun heq _ => htie (hmideq heq)⟩
  · exact ⟨le_rfl, fun _ hne => absurd rfl hne⟩
  · obtain ⟨hmid, htie⟩ := h.below hn
    have hnw : (F.units (n + 1) : ℝ) ≤ w := by
      rw [abs_of_pos (lt_of_le_of_lt (by positivity) hgt)] at hw
      rw [hw] at hgt ⊢
      exact F.units_le_cast (FloatFmt.lt_of_units_lt_cast hgt)
    obtain ⟨hle, hmideq⟩ := abs_sub_le_of_le_mid (F.units_lt_cast (Nat.lt_succ_self n)) hmid hnw
    exact ⟨hle, fun heq _ => htie (hmideq heq)⟩

/-- Infinity results exactly from the middle between the largest number and the next magnitude on. -/
theorem FloatFmt.IsNearest.eq_inf_iff {F : FloatFmt} (hF : F.Proper) {y : ℝ} {n : Nat} (h : F.IsNearest y n) :
    n = F.infBits ↔ F.units (F.infBits - 1) + F.units F.infBits ≤ 2 * y := by
  have hpos := hF.infBits_pos
  constructor
  · rintro rfl
    exact (h.above _ (by omega)).1
  · intro hy
    by_contra hne
    have hlt : n < F.infBits := lt_of_le_of_ne h.le_inf hne
    obtain ⟨hle, heven⟩ := h.below hlt
    have h1 := F.units_le_cast (show n ≤ F.infBits - 1 by omega)
    have h2 := F.units_le_cast (show n + 1 ≤ F.infBits by omega)
    have h3 : n + 1 = F.infBits := by
      by_contra hne'
      linarith [F.units_lt_cast (show n + 1 < F.infBits by omega)]
    have hodd := hF.even_infBits
    rw [← h3, Nat.even_add_one] at hodd
    exact hodd (heven (by linarith))

/-- A magnitude that is a value exactly is its rounding. -/
theorem FloatFmt.IsNearest.eq_of_units_eq {F : FloatFmt} {y : ℝ} {n b : Nat} (h : F.IsNearest y n)
    (hb : b < F.infBits) (hy : y = F.units b) : n = b := by
  rcases lt_trichotomy n b with hlt | heq | hgt
  · linarith [(h.below (by omega)).1, F.units_lt_cast (Nat.lt_succ_self n), F.units_le_cast (show n + 1 ≤ b from hlt)]
  · exact heq
  · obtain ⟨p, rfl⟩ : ∃ p, n = p + 1 := ⟨n - 1, by omega⟩
    linarith [(h.above p rfl).1, F.units_lt_cast (Nat.lt_succ_self p), F.units_le_cast (show b ≤ p by omega)]

/-- What rounds to the significand `sig` in place `k`: the integer nearest `z` with ties to even, for a `z` of the width of a significand. -/
structure FloatFmt.RoundsTo (F : FloatFmt) (k : Nat) (z : ℝ) (sig : Nat) : Prop where
  dist_le : |z - sig| ≤ 1 / 2
  tie : |z - sig| = 1 / 2 → Even sig
  place : k = 0 ∨ 2 ^ F.fbits ≤ z
  lt : z < 2 ^ (F.fbits + 1)

section
variable {F : FloatFmt} {k sig : Nat} {z : ℝ} (h : F.RoundsTo k z sig)
include h

theorem FloatFmt.RoundsTo.sig_le : sig ≤ 2 ^ (F.fbits + 1) := by
  have : (sig : ℝ) < (2 ^ (F.fbits + 1) + 1 : ℕ) := by push_cast; linarith [(abs_le.1 h.dist_le).1, h.lt]
  exact Nat.lt_succ_iff.1 (by exact_mod_cast this)

theorem FloatFmt.RoundsTo.sig_place : k = 0 ∨ 2 ^ F.fbits ≤ sig := h.place.imp_right fun hz => by
  have : ((2 ^ F.fbits : ℕ) : ℝ) < (sig + 1 : ℕ) := by push_cast; linarith [(abs_le.1 h.dist_le).2]
  exact Nat.lt_succ_iff.1 (by exact_mod_cast this)

theorem FloatFmt.RoundsTo.units_eq : (F.units (k * 2 ^ F.fbits + sig) : ℝ) = sig * 2 ^ k := by
  rw [F.units_place h.sig_place h.sig_le]; push_cast; rfl

/-- At a tie the whole magnitude is even, as its fraction is. -/
theorem FloatFmt.RoundsTo.even (hF : F.Proper) (ht : |z - sig| = 1 / 2) : Even (k * 2 ^ F.fbits + sig) :=
  Even.add (Even.mul_left (Nat.even_pow.2 ⟨even_two, by have := hF.one_le_fbits; omega⟩) k) (h.tie ht)

theorem FloatFmt.RoundsTo.belowNext (hF : F.Proper) : F.belowNext (z * 2 ^ k) (k * 2 ^ F.fbits + sig) := by
  have hP : (0 : ℝ) < 2 ^ k := by positivity
  rcases h.sig_le.lt_or_eq with hlt | heq
  · have hU : (F.units (k * 2 ^ F.fbits + sig + 1) : ℝ) = (sig + 1) * 2 ^ k := by
      rw [Nat.add_assoc, F.units_place (by have := h.sig_place; omega) hlt]; push_cast; rfl
    rw [FloatFmt.belowNext, h.units_eq, hU]
    have hd := (abs_le.1 h.dist_le).2
    refine ⟨by nlinarith, fun htie => h.even hF ?_⟩
    have hz : z - sig = 1 / 2 := mul_right_cancel₀ hP.ne' (by linarith)
    rw [hz]; norm_num
  · have hz : z * 2 ^ k < F.units (k * 2 ^ F.fbits + sig) := by
      rw [h.units_eq, heq]; push_cast; exact mul_lt_mul_of_pos_right h.lt hP
    have hnext := F.units_lt_cast (Nat.lt_succ_self (k * 2 ^ F.fbits + sig))
    exact ⟨by linarith, fun _ => by linarith⟩

theorem FloatFmt.RoundsTo.abovePrev (hF : F.Proper) : F.abovePrev (z * 2 ^ k) (k * 2 ^ F.fbits + sig) := by
  intro p hp
  have hP : (0 : ℝ) < 2 ^ k := by positivity
  by_cases hs : k = 0 ∨ 2 ^ F.fbits < sig
  · have hpos : 0 < sig := by
      rcases hs with rfl | hs
      · omega
      · exact (Nat.zero_le _).trans_lt hs
    obtain ⟨t, rfl⟩ : ∃ t, sig = t + 1 := ⟨sig - 1, by omega⟩
    obtain rfl : p = k * 2 ^ F.fbits + t := by omega
    have hU : (F.units (k * 2 ^ F.fbits + t) : ℝ) = t * 2 ^ k := by
      rw [F.units_place (by omega) (by have := h.sig_le; omega)]; push_cast; rfl
    rw [h.units_eq, hU]
    have hd := (abs_le.1 h.dist_le).1
    push_cast at hd ⊢
    refine ⟨by nlinarith, fun htie => h.even hF ?_⟩
    have hz : z - (t + 1 : ℕ) = -(1 / 2) := mul_right_cancel₀ hP.ne' (by push_cast; linarith)
    rw [hz]; norm_num
  · have hsig : sig = 2 ^ F.fbits := by have := h.sig_place; omega
    have hz : (F.units (k * 2 ^ F.fbits + sig) : ℝ) ≤ z * 2 ^ k := by
      rw [h.units_eq, hsig]; push_cast
      exact mul_le_mul_of_nonneg_right (h.place.resolve_left (by omega)) hP.le
    have hprev := F.units_lt_cast (show p < k * 2 ^ F.fbits + sig by omega)
    exact ⟨by linarith, fun _ => by linarith⟩

end

/-! ## The rounding of the model -/

/-- `m` stands for the number `v` when it is rounded: it is `v`, or it is odd and long, and `v` lies strictly between its two even
neighbours (a quotient or a root with its sticky bit). -/
def FloatFmt.StandsFor (F : FloatFmt) (m : Nat) (v : ℝ) : Prop :=
  v = m ∨ (m % 2 = 1 ∧ 2 ^ (F.fbits + 2) ≤ m ∧ |v - m| < 1)

/-- What `m` stands for lies on the same side of the middle between two multiples of `2 ^ (j + 1)` as `m` itself. -/
theorem remainder_side {j lo r : Nat} {v : ℝ} (hr : r < 2 ^ (j + 1))
    (h : v = (lo * 2 ^ (j + 1) + r : ℕ) ∨ (1 ≤ j ∧ r % 2 = 1 ∧ |v - (lo * 2 ^ (j + 1) + r : ℕ)| < 1)) :
    (0 ≤ v - lo * 2 ^ (j + 1) ∧ v - lo * 2 ^ (j + 1) ≤ 2 ^ (j + 1)) ∧ (r < 2 ^ j → v - lo * 2 ^ (j + 1) < 2 ^ j) ∧
      (2 ^ j < r → 2 ^ j < v - lo * 2 ^ (j + 1)) ∧ (r = 2 ^ j → v - lo * 2 ^ (j + 1) = 2 ^ j) := by
  rcases h with rfl | ⟨hj, hodd, hd⟩
  · have ht : ((lo * 2 ^ (j + 1) + r : ℕ) : ℝ) - lo * 2 ^ (j + 1) = r := by push_cast; ring
    rw [ht]
    exact ⟨⟨by positivity, by exact_mod_cast hr.le⟩, by intro h; exact_mod_cast h, by intro h; exact_mod_cast h,
      by rintro rfl; norm_num⟩
  · obtain ⟨hd1, hd2⟩ := abs_lt.1 hd
    push_cast at hd1 hd2
    obtain ⟨i, rfl⟩ : ∃ i, j = i + 1 := ⟨j - 1, by omega⟩
    have h0 : (1 : ℝ) ≤ r := by exact_mod_cast (by omega : 1 ≤ r)
    have hlast : ((r + 1 : ℕ) : ℝ) ≤ (2 ^ (i + 1 + 1) : ℕ) := by exact_mod_cast hr
    push_cast at hlast
    refine ⟨⟨by linarith, by linarith⟩, fun h => ?_, fun h => ?_, fun h => ?_⟩
    · have : ((r + 1 : ℕ) : ℝ) ≤ (2 ^ (i + 1) : ℕ) := by exact_mod_cast h
      push_cast at this
      linarith
    · have : ((2 ^ (i + 1) + 1 : ℕ) : ℝ) ≤ r := by exact_mod_cast h
      push_cast at this
      linarith
    · rw [h, pow_succ] at hodd
      omega

/-- `roundShift` rounds what `m` stands for to the nearest integer, ties to even. -/
theorem roundShift_nearest {m s : Nat} {v : ℝ} (h : v = m ∨ (2 ≤ s ∧ m % 2 = 1 ∧ |v - m| < 1)) :
    |v / 2 ^ s - roundShift m s| ≤ 1 / 2 ∧ (|v / 2 ^ s - roundShift m s| = 1 / 2 → Even (roundShift m s)) := by
  rcases s with _ | j
  · obtain rfl | ⟨h2, -, -⟩ := h
    · simp [roundShift]
    · omega
  have hdm := Nat.div_add_mod' m (2 ^ (j + 1))
  have hr := Nat.mod_lt m (show 0 < 2 ^ (j + 1) by positivity)
  have hodd : m % 2 = 1 → m % 2 ^ (j + 1) % 2 = 1 := fun h => by
    rwa [Nat.mod_mod_of_dvd _ (dvd_pow_self 2 (Nat.succ_ne_zero j))]
  rw [roundShift]
  generalize m / 2 ^ (j + 1) = lo at *
  generalize m % 2 ^ (j + 1) = r at *
  subst hdm
  obtain ⟨⟨h0, h1⟩, hlt, hgt, heq⟩ := remainder_side hr (h.imp_right fun ⟨hs, hm, hd⟩ => ⟨by omega, hodd hm, hd⟩)
  have hP : (0 : ℝ) < 2 ^ j := by positivity
  have hhalf : ∀ sig : ℕ, |v / 2 ^ (j + 1) - sig| = |v - sig * 2 ^ (j + 1)| / (2 * 2 ^ j) := fun sig => by
    rw [← pow_succ', show v / 2 ^ (j + 1) - sig = (v - sig * 2 ^ (j + 1)) / 2 ^ (j + 1) by field_simp, abs_div,
      abs_of_pos (show (0 : ℝ) < 2 ^ (j + 1) by positivity)]
  obtain ⟨t, rfl⟩ : ∃ t, v = t + lo * 2 ^ (j + 1) := ⟨_, (sub_add_cancel _ _).symm⟩
  simp only [add_sub_cancel_right] at h0 h1 hlt hgt heq
  split_ifs with hup
  · have hge : 2 ^ j ≤ t := hup.elim (fun h => (hgt h).le) (fun h => (heq h.1).ge)
    have hd : |t + lo * 2 ^ (j + 1) - (lo + 1 : ℕ) * 2 ^ (j + 1)| = 2 * 2 ^ j - t := by
      rw [abs_of_nonpos (by push_cast; linarith)]; push_cast; ring
    rw [hhalf, hd, div_le_iff₀ (by positivity), div_eq_iff (by positivity)]
    refine ⟨by linarith, fun htie => ?_⟩
    rcases hup with h | ⟨-, h⟩
    · linarith [hgt h]
    · exact Nat.even_add_one.2 (Nat.not_even_iff.2 h)
  · have hle : t ≤ 2 ^ j := by
      rcases lt_or_eq_of_le (show r ≤ 2 ^ j by omega) with h | h
      · exact (hlt h).le
      · exact (heq h).le
    rw [hhalf, add_sub_cancel_right, abs_of_nonneg h0, div_le_iff₀ (by positivity), div_eq_iff (by positivity)]
    refine ⟨by linarith, fun htie => ?_⟩
    have hr' : r = 2 ^ j := by
      by_contra hne
      linarith [hlt (lt_of_le_of_ne (by omega) hne)]
    exact Nat.even_iff.2 (by omega)

end Sys2Proof.Machine
end

section
/-! PROOFS. `roundMag` and `pack` round correctly (R5, R7, R8). -/

namespace Sys2Proof.Machine

section
variable {F : FloatFmt} {m : Nat} {v : ℝ} (h : F.StandsFor m v)
include h

/-- What a nonzero `m` stands for has the leading bit of `m`. -/
theorem FloatFmt.StandsFor.bounds (hm : m ≠ 0) : 2 ^ m.log2 ≤ v ∧ v < 2 ^ (m.log2 + 1) := by
  have hlo : 2 ^ m.log2 ≤ m := Nat.log2_self_le hm
  have hhi : m + 1 ≤ 2 ^ (m.log2 + 1) := Nat.lt_log2_self
  have hhi' : (m + 1 : ℝ) ≤ 2 ^ (m.log2 + 1) := by exact_mod_cast hhi
  rcases h with rfl | ⟨hodd, hlong, hd⟩
  · exact ⟨by exact_mod_cast hlo, by linarith⟩
  · obtain ⟨hd1, hd2⟩ := abs_lt.1 hd
    have hL : m.log2 ≠ 0 := by
      have := (Nat.le_log2 hm).2 hlong
      omega
    have heven : Even (2 ^ m.log2) := Nat.even_pow.2 ⟨even_two, hL⟩
    have hlo1 : 2 ^ m.log2 + 1 ≤ m := by
      rcases hlo.lt_or_eq with h | h
      · exact h
      · rw [h, Nat.even_iff] at heven; omega
    have hlo' : (2 ^ m.log2 + 1 : ℝ) ≤ m := by exact_mod_cast hlo1
    exact ⟨by linarith, by linarith⟩

theorem FloatFmt.StandsFor.eq_zero (hm : m = 0) : v = 0 := by
  subst hm
  rcases h with rfl | ⟨hodd, -, -⟩
  · exact Nat.cast_zero
  · exact absurd hodd (by decide)

theorem FloatFmt.StandsFor.nonneg : 0 ≤ v := by
  rcases eq_or_ne m 0 with hm | hm
  · exact (h.eq_zero hm).ge
  · exact le_trans (by positivity) (h.bounds hm).1

end

theorem FloatFmt.lastPlace_cases (F : FloatFmt) (m : Nat) (e : Int) :
    (F.lastPlace m e = F.emin ∧ e + m.log2 - F.fbits < F.emin) ∨
      (F.lastPlace m e = e + m.log2 - F.fbits ∧ F.emin ≤ e + m.log2 - F.fbits) := by
  unfold FloatFmt.lastPlace
  split_ifs with h
  · exact .inl ⟨rfl, h⟩
  · exact .inr ⟨rfl, not_lt.1 h⟩

/-- The significand of `m · 2^e` in the last place `q`. -/
def significandAt (q : Int) (m : Nat) (e : Int) : Nat :=
  if e < q then roundShift m (q - e).toNat else m * 2 ^ (e - q).toNat

theorem FloatFmt.roundMag_eq (F : FloatFmt) {m : Nat} (hm : m ≠ 0) (e : Int) :
    F.roundMag m e =
      (let n := (F.lastPlace m e - F.emin).toNat * 2 ^ F.fbits + significandAt (F.lastPlace m e) m e
      if F.infBits ≤ n then F.infBits else n) := by
  rw [FloatFmt.roundMag, if_neg hm]; rfl

/-- The significand in the last place is what `m` stands for, rounded. -/
theorem FloatFmt.StandsFor.roundsTo {F : FloatFmt} {m : Nat} {v : ℝ} (h : F.StandsFor m v) (hm : m ≠ 0) (e : Int) :
    F.RoundsTo (F.lastPlace m e - F.emin).toNat (v * 2 ^ (e - F.lastPlace m e)) (significandAt (F.lastPlace m e) m e) := by
  obtain ⟨hlo, hhi⟩ := h.bounds hm
  have hq := F.lastPlace_cases m e
  generalize F.lastPlace m e = q at *
  have hlt : v * 2 ^ (e - q) < 2 ^ (F.fbits + 1) := calc
    v * 2 ^ (e - q) < 2 ^ (m.log2 + 1) * (2 : ℝ) ^ (e - q) := mul_lt_mul_of_pos_right hhi (by positivity)
    _ = (2 : ℝ) ^ ((m.log2 + 1 : ℕ) + (e - q)) := by rw [zpow_add₀ two_ne_zero, zpow_natCast]
    _ ≤ (2 : ℝ) ^ ((F.fbits + 1 : ℕ) : ℤ) := zpow_le_zpow_right₀ one_le_two (by push_cast; omega)
    _ = 2 ^ (F.fbits + 1) := zpow_natCast _ _
  have hplace : (q - F.emin).toNat = 0 ∨ 2 ^ F.fbits ≤ v * 2 ^ (e - q) := by
    refine hq.imp (fun h => by omega) fun ⟨hq, _⟩ => ?_
    calc (2 : ℝ) ^ F.fbits = (2 : ℝ) ^ ((m.log2 : ℤ) + (e - q)) := by rw [← zpow_natCast]; congr 1; omega
      _ = 2 ^ m.log2 * (2 : ℝ) ^ (e - q) := by rw [zpow_add₀ two_ne_zero, zpow_natCast]
      _ ≤ v * 2 ^ (e - q) := mul_le_mul_of_nonneg_right hlo (by positivity)
  unfold significandAt
  split_ifs with hshift
  · have hz : v * 2 ^ (e - q) = v / 2 ^ (q - e).toNat := by
      rw [div_eq_mul_inv, ← zpow_natCast, ← zpow_neg]; congr 2; omega
    have hs : v = m ∨ (2 ≤ (q - e).toNat ∧ m % 2 = 1 ∧ |v - m| < 1) := h.imp_right fun ⟨hodd, hlong, hd⟩ => by
      have := (Nat.le_log2 hm).2 hlong
      exact ⟨by omega, hodd, hd⟩
    obtain ⟨hd, htie⟩ := roundShift_nearest hs
    rw [hz] at hlt hplace ⊢
    exact ⟨hd, htie, hplace, hlt⟩
  · obtain rfl : v = m := h.resolve_right fun ⟨_, hlong, _⟩ => by
      have := (Nat.le_log2 hm).2 hlong
      omega
    have hz : (m : ℝ) * 2 ^ (e - q) = (m * 2 ^ (e - q).toNat : ℕ) := by
      rw [Nat.cast_mul, Nat.cast_pow, Nat.cast_two, ← zpow_natCast]; congr 2; omega
    refine ⟨?_, ?_, hplace, hlt⟩ <;> rw [hz, sub_self, abs_zero] <;> norm_num

/-- `roundMag` rounds to nearest, ties to even, with gradual underflow and overflow to infinity (R5, R7, R8). -/
theorem FloatFmt.StandsFor.isNearest_roundMag {F : FloatFmt} (hF : F.Proper) {m : Nat} {v : ℝ} (h : F.StandsFor m v) (e : Int) :
    F.IsNearest (v * 2 ^ e / 2 ^ F.emin) (F.roundMag m e) := by
  rcases eq_or_ne m 0 with rfl | hm
  · obtain rfl : v = 0 := h.eq_zero rfl
    have h0 : F.roundMag 0 e = 0 := rfl
    rw [h0, zero_mul, zero_div]
    exact ⟨Nat.zero_le _, fun _ => ⟨by rw [mul_zero]; positivity, fun _ => Even.zero⟩, fun p hp => absurd hp (by omega)⟩
  · have hq : F.emin ≤ F.lastPlace m e := by have := F.lastPlace_cases m e; omega
    have hr := h.roundsTo hm e
    have hy : v * (2 : ℝ) ^ e / 2 ^ F.emin = v * 2 ^ (e - F.lastPlace m e) * 2 ^ (F.lastPlace m e - F.emin).toNat := by
      rw [mul_assoc, mul_div_assoc, ← zpow_natCast, ← zpow_add₀ two_ne_zero, ← zpow_sub₀ two_ne_zero]; congr 2; omega
    rw [F.roundMag_eq hm, hy]
    exact .of_clamp hF (hr.belowNext hF) (hr.abovePrev hF)

/-! ## Rounding as the statements say it -/

/-- A number stands for itself. -/
theorem FloatFmt.standsFor_self (F : FloatFmt) (m : Nat) : F.StandsFor m m := .inl rfl

/-- The largest number and the magnitudes beside it. -/
theorem FloatFmt.Proper.units_near_inf {F : FloatFmt} (hF : F.Proper) :
    F.units F.infBits = 2 * 2 ^ F.fbits * 2 ^ (2 ^ F.ebits - 3) ∧
    F.units (F.infBits - 1) + 2 ^ (2 ^ F.ebits - 3) = F.units F.infBits ∧
    F.units (F.infBits - 2) + 2 * 2 ^ (2 ^ F.ebits - 3) = F.units F.infBits := by
  have he : 4 ≤ 2 ^ F.ebits := le_trans (by norm_num) (Nat.pow_le_pow_right two_pos hF.two_le_ebits)
  have hf : 2 ≤ 2 ^ F.fbits := le_trans (by norm_num) (Nat.pow_le_pow_right two_pos hF.one_le_fbits)
  have hinf : F.infBits = (2 ^ F.ebits - 3) * 2 ^ F.fbits + 2 * 2 ^ F.fbits := by
    rw [FloatFmt.infBits, ← Nat.add_mul]; congr 1; omega
  have key : ∀ d ≤ 2, F.units (F.infBits - d) + d * 2 ^ (2 ^ F.ebits - 3) = 2 * 2 ^ F.fbits * 2 ^ (2 ^ F.ebits - 3) := by
    intro d hd
    have hpl : F.infBits - d = (2 ^ F.ebits - 3) * 2 ^ F.fbits + (2 * 2 ^ F.fbits - d) := by omega
    rw [hpl, F.units_place (.inr (by omega)) (by rw [pow_succ]; omega), ← Nat.add_mul, Nat.sub_add_cancel (by omega)]
  have k0 := key 0 (by omega)
  have k1 := key 1 (by omega)
  have k2 := key 2 (by omega)
  simp only [Nat.sub_zero, Nat.zero_mul, Nat.add_zero, Nat.one_mul] at k0 k1
  exact ⟨k0, k1.trans k0.symm, k2.trans k0.symm⟩

/-- The overflow bound is the middle between the largest number and the next magnitude. -/
theorem FloatFmt.Proper.overflowBound_eq {F : FloatFmt} (hF : F.Proper) :
    2 * overflowBound F = (F.units (F.infBits - 1) + F.units F.infBits) * 2 ^ F.emin := by
  obtain ⟨h0, h1, -⟩ := hF.units_near_inf
  have hA : 2 ^ F.ebits = 2 * 2 ^ (F.ebits - 1) := by
    rw [← pow_succ', Nat.sub_add_cancel (by have := hF.two_le_ebits; omega)]
  have hle := hF.fbits_add_two_le
  have hemin : F.emin = 2 - (2 ^ (F.ebits - 1) : ℕ) - F.fbits := by rw [FloatFmt.emin]; push_cast; ring
  rw [hA] at h0 h1
  rw [overflowBound, hemin]
  generalize 2 ^ (F.ebits - 1) = A at *
  have hU0 : (F.units F.infBits : ℚ) * 2 ^ (2 - (A : ℤ) - F.fbits) = 2 ^ A := by
    rw [h0]
    push_cast
    rw [← pow_succ', ← pow_add, ← zpow_natCast, ← zpow_add₀ two_ne_zero, ← zpow_natCast]
    congr 1; omega
  have hulp : ((2 : ℚ) ^ (2 * A - 3)) * 2 ^ (2 - (A : ℤ) - F.fbits) = 2 * 2 ^ (A - F.fbits - 2) := by
    rw [← pow_succ', ← zpow_natCast, ← zpow_add₀ two_ne_zero, ← zpow_natCast]
    congr 1; omega
  have hU1 : (F.units (F.infBits - 1) : ℚ) = F.units F.infBits - 2 ^ (2 * A - 3) := by
    rw [← h1]; push_cast; ring
  rw [hU1, add_mul, sub_mul, hU0, hulp]
  ring

/-- Infinity results exactly from the overflow bound on (R7). -/
theorem FloatFmt.IsNearest.eq_inf_iff_overflow {F : FloatFmt} (hF : F.Proper) {x : ℝ} {n : Nat}
    (h : F.IsNearest (x / 2 ^ F.emin) n) : n = F.infBits ↔ (overflowBound F : ℝ) ≤ x := by
  have hb : (2 : ℝ) * overflowBound F = (F.units (F.infBits - 1) + F.units F.infBits) * 2 ^ F.emin := by
    have := congrArg (Rat.cast : ℚ → ℝ) hF.overflowBound_eq
    push_cast at this
    exact this
  rw [h.eq_inf_iff hF, ← mul_div_assoc, le_div_iff₀ (by positivity), ← hb, mul_le_mul_iff_right₀ two_pos]

/-- The distance of a magnitude to a number, in units. -/
theorem abs_magnitudeValue_sub {F : FloatFmt} {b : Nat} (hb : b < F.infBits) (m : Nat) (e : Int) :
    ((|magnitudeValue F b - m * (2 : ℚ) ^ e| : ℚ) : ℝ) = |F.units b - m * (2 : ℝ) ^ e / 2 ^ F.emin| * 2 ^ F.emin := by
  have hu : (0 : ℝ) < 2 ^ F.emin := by positivity
  rw [magnitudeValue_eq_units hb]
  push_cast
  rw [← abs_of_pos hu, ← abs_mul, abs_of_pos hu, sub_mul, div_mul_cancel₀ _ hu.ne']

/-- The first part of O33: `roundMag` in one format. -/
theorem FloatFmt.Proper.roundMag_toNearest {F : FloatFmt} (hF : F.Proper) (m : Nat) (e : Int) :
    (F.roundMag m e < F.infBits → ∀ b, b < F.infBits →
      |magnitudeValue F (F.roundMag m e) - m * (2 : ℚ) ^ e| ≤ |magnitudeValue F b - m * (2 : ℚ) ^ e| ∧
      (|magnitudeValue F (F.roundMag m e) - m * (2 : ℚ) ^ e| = |magnitudeValue F b - m * (2 : ℚ) ^ e| →
        b ≠ F.roundMag m e → F.roundMag m e % 2 = 0)) ∧
    (F.roundMag m e = F.infBits ↔
      magnitudeValue F (F.infBits - 1) + (magnitudeValue F (F.infBits - 1) - magnitudeValue F (F.infBits - 2)) / 2 ≤
        m * (2 : ℚ) ^ e) ∧
    F.roundMag m e ≤ F.infBits := by
  have hnear := (F.standsFor_self m).isNearest_roundMag hF e
  have hu : (0 : ℝ) < 2 ^ F.emin := by positivity
  refine ⟨fun hn b hb => ?_, ?_, hnear.le_inf⟩
  · obtain ⟨hle, htie⟩ := hnear.le_dist hn (by positivity) (w := F.units b) (Nat.abs_cast _)
    rw [← Rat.cast_le (K := ℝ), ← Rat.cast_inj (α := ℝ), abs_magnitudeValue_sub hn, abs_magnitudeValue_sub hb,
      mul_le_mul_iff_left₀ hu, mul_left_inj' hu.ne']
    refine ⟨hle, fun heq hne => Nat.even_iff.1 (htie heq fun hu => hne ?_)⟩
    exact F.units_strictMono.injective (by exact_mod_cast hu)
  · have hpos := hF.infBits_pos
    obtain ⟨-, h1, h2⟩ := hF.units_near_inf
    have hmid : (F.units (F.infBits - 1) : ℚ) * 2 ^ F.emin +
        (F.units (F.infBits - 1) * 2 ^ F.emin - F.units (F.infBits - 2) * 2 ^ F.emin) / 2 = overflowBound F := by
      have h12 : (F.units (F.infBits - 2) : ℚ) + F.units F.infBits = 2 * F.units (F.infBits - 1) := by
        exact_mod_cast (by omega)
      linear_combination (-1 / 2 : ℚ) * hF.overflowBound_eq + (-1 / 2 : ℚ) * 2 ^ F.emin * h12
    rw [hnear.eq_inf_iff_overflow hF, magnitudeValue_eq_units (by omega), magnitudeValue_eq_units (by omega), hmid,
      ← Rat.cast_le (K := ℝ)]
    push_cast
    rfl

/-- A pattern with the sign of `q` whose magnitude is that of `q` rounded is `q` correctly rounded. -/
theorem FloatFmt.IsNearest.correctlyRounded {F : FloatFmt} (hF : F.Proper) {q : ℝ} {neg : Bool} {n : Nat}
    (h : F.IsNearest (|q| / 2 ^ F.emin) n) (hneg : neg = true ↔ q < 0) : correctlyRounded F q (F.withSign neg n) := by
  have hu : (0 : ℝ) < 2 ^ F.emin := by positivity
  have hns : n < F.signBit := h.le_inf.trans_lt F.infBits_lt_signBit
  refine ⟨by rw [F.signField_iff, FloatFmt.negative_withSign neg hns, hneg], fun hq => ?_, fun hq => ?_⟩
  · rw [patternInfinite_iff, FloatFmt.withSign_mod neg hns]
    exact (h.eq_inf_iff_overflow hF).2 hq
  have hn : n < F.infBits := h.le_inf.lt_of_ne fun heq => not_le.2 hq ((h.eq_inf_iff_overflow hF).1 heq)
  refine ⟨by rwa [patternFinite_iff, FloatFmt.withSign_mod neg hns], fun b _ _ => ?_⟩
  obtain ⟨σ, hσ, hσq⟩ : ∃ σ : ℝ, σ = (-1) ^ neg.toNat ∧ σ * q = |q| := by
    refine ⟨_, rfl, ?_⟩
    cases neg
    · simp [abs_of_nonneg (not_lt.1 fun h => Bool.noConfusion (hneg.2 h))]
    · simp [abs_of_neg (hneg.1 rfl)]
  have hσσ : σ * σ = 1 := by rw [hσ, ← pow_add, ← two_mul, pow_mul]; norm_num
  have hσabs : |σ| = 1 := by rw [hσ, abs_neg_one_pow]
  have hdist : ∀ x : ℝ, |x - q| = |σ * x / 2 ^ F.emin - |q| / 2 ^ F.emin| * 2 ^ F.emin := fun x => by
    rw [← hσq, ← sub_div, ← mul_sub, abs_div, abs_of_pos hu, div_mul_cancel₀ _ hu.ne', abs_mul, hσabs, one_mul]
  have hval : ∀ b, (patternValue F b : ℝ) = (-1) ^ (F.negative b).toNat * (F.units (b % F.signBit) * 2 ^ F.emin) := fun b => by
    rw [patternValue_eq_units]; push_cast; rfl
  have hr : σ * (patternValue F (F.withSign neg n) : ℝ) / 2 ^ F.emin = F.units n := by
    rw [hval, FloatFmt.negative_withSign neg hns, FloatFmt.withSign_mod neg hns, ← hσ, ← mul_assoc, hσσ, one_mul,
      mul_div_cancel_right₀ _ hu.ne']
  have hw : |σ * (patternValue F b : ℝ) / 2 ^ F.emin| = F.units (b % F.signBit) := by
    rw [hval, abs_div, abs_mul, abs_mul, hσabs, abs_neg_one_pow, one_mul, one_mul, abs_of_pos hu, abs_mul, Nat.abs_cast,
      abs_of_pos hu, mul_div_cancel_right₀ _ hu.ne']
  obtain ⟨hle, htie⟩ := h.le_dist hn (by positivity) hw
  rw [hdist, hdist, hr, mul_le_mul_iff_left₀ hu, mul_left_inj' hu.ne']
  refine ⟨hle, fun heq hne => ?_⟩
  have heven : Even n := htie heq fun hwn => hne ?_
  · rw [← F.magnitude_mod, FloatFmt.withSign_mod neg hns]
    exact (Nat.mod_mod_of_dvd _ (dvd_pow_self 2 (by have := hF.one_le_fbits; omega))).trans (Nat.even_iff.1 heven)
  · rw [← hr] at hwn
    have hσ0 : σ ≠ 0 := fun h => by simp [h] at hσσ
    exact_mod_cast mul_left_cancel₀ hσ0 ((div_left_inj' hu.ne').1 hwn)

/-- Packing a number rounds what its significand stands for, once. -/
theorem FloatFmt.StandsFor.correctlyRounded_pack {F : FloatFmt} (hF : F.Proper) {m : Nat} {v q : ℝ} (h : F.StandsFor m v)
    {neg : Bool} {e : Int} (hq : q = (-1) ^ neg.toNat * (v * 2 ^ e)) (hq0 : q ≠ 0) :
    correctlyRounded F q (F.pack (.fin neg m e)) := by
  have hv : 0 ≤ v * 2 ^ e := mul_nonneg h.nonneg (by positivity)
  have habs : |q| = v * 2 ^ e := by rw [hq, abs_mul, abs_neg_one_pow, one_mul, abs_of_nonneg hv]
  refine FloatFmt.IsNearest.correctlyRounded hF (habs ▸ h.isNearest_roundMag hF e) ?_
  have hpos : 0 < v * 2 ^ e := habs ▸ abs_pos.2 hq0
  cases neg
  · simpa [hq] using hv
  · simpa [hq] using hpos

end Sys2Proof.Machine
end

section
/-! PROOFS. What the words of R4 unpack to, and the exact operations behind binary64 arithmetic (R5, R11). -/

namespace Sys2Proof.Machine

/-! ## What a word unpacks to (R4) -/

/-- The sign of a pattern is the top bit of its word. -/
theorem FloatFmt.negative_bits (F : FloatFmt) (a : BitVec (F.ebits + F.fbits + 1)) : F.negative a.toNat = a.msb := by
  have hpos : 0 < F.signBit := by unfold FloatFmt.signBit; positivity
  have hlt : a.toNat / F.signBit < 2 := Nat.div_lt_of_lt_mul (by rw [FloatFmt.signBit, ← pow_succ]; exact a.isLt)
  rw [BitVec.msb_eq_decide, FloatFmt.negative, beq_eq_decide, decide_eq_decide, Nat.mod_eq_of_lt hlt, Nat.add_sub_cancel]
  exact ⟨fun h => (Nat.one_le_div_iff hpos).1 h.ge, fun h => le_antisymm (Nat.le_of_lt_succ hlt) ((Nat.one_le_div_iff hpos).2 h)⟩

/-- A word is its sign and its magnitude bits. -/
theorem FloatFmt.eq_ofNat_withSign (F : FloatFmt) (a : BitVec (F.ebits + F.fbits + 1)) :
    a = BitVec.ofNat _ (F.withSign a.msb (a.toNat % F.signBit)) := by
  rw [← F.negative_bits, FloatFmt.withSign_negative (by rw [FloatFmt.signBit, ← pow_succ']; exact a.isLt), BitVec.ofNat_toNat,
    BitVec.setWidth_eq]

theorem negative_toNat64 (a : Dword) : binary64.negative a.toNat = a.msb := binary64.negative_bits a

theorem negative_toNat32 (w : Word) : binary32.negative w.toNat = w.msb := binary32.negative_bits w

theorem eq_ofNat_withSign64 (a : Dword) : a = BitVec.ofNat 64 (binary64.withSign a.msb (a.toNat % binary64.signBit)) :=
  binary64.eq_ofNat_withSign a

theorem eq_ofNat_withSign32 (w : Word) : w = BitVec.ofNat 32 (binary32.withSign w.msb (w.toNat % binary32.signBit)) :=
  binary32.eq_ofNat_withSign w

theorem val64_nan {a : Dword} (h : patternNaN binary64 a.toNat) : val64 a = .nan := FloatFmt.unpack_nan h

theorem val64_inf {a : Dword} (h : patternInfinite binary64 a.toNat) : val64 a = .inf a.msb := by
  rw [val64, FloatFmt.unpack_inf h, negative_toNat64]

theorem val64_fin {a : Dword} (h : patternFinite binary64 a.toNat) :
    ∃ m e, val64 a = .fin a.msb m e ∧ m < 2 ^ 53 ∧ patternValue binary64 a.toNat = (FloatVal.fin a.msb m e).value := by
  obtain ⟨m, e, hu, hm, -, hv⟩ := FloatFmt.unpack_fin h
  rw [negative_toNat64] at hu
  exact ⟨m, e, hu, hm, hu ▸ hv⟩

theorem FloatVal.value_fin_eq_zero_iff (s : Bool) (m : Nat) (e : Int) : (FloatVal.fin s m e).value = 0 ↔ m = 0 := by
  have h2 : (2 : ℚ) ^ e ≠ 0 := by positivity
  simp [h2]

/-! ## What packing gives -/

theorem FloatFmt.pack_lt {F : FloatFmt} (hF : F.Proper) (v : FloatVal) : F.pack v < 2 * F.signBit := by
  have hinf := F.infBits_lt_signBit
  cases v with
  | nan =>
    have h1 : 2 ^ (F.fbits - 1) < 2 ^ F.fbits := Nat.pow_lt_pow_right one_lt_two (by have := hF.one_le_fbits; omega)
    have h2 : F.infBits + 2 ^ F.fbits = F.signBit := by
      have he : 2 ^ F.ebits - 1 + 1 = 2 ^ F.ebits := Nat.sub_add_cancel Nat.one_le_two_pow
      rw [FloatFmt.infBits, FloatFmt.signBit, pow_add, ← Nat.succ_mul, Nat.succ_eq_add_one, he]
    simp only [FloatFmt.pack, FloatFmt.nanBits]
    omega
  | inf s => exact FloatFmt.withSign_lt s hinf
  | fin s m e => exact FloatFmt.withSign_lt s (((F.standsFor_self m).isNearest_roundMag hF e).le_inf.trans_lt hinf)

@[simp] theorem pack64_toNat (v : FloatVal) : (pack64 v).toNat = binary64.pack v :=
  BitVec.toNat_ofNat _ _ |>.trans (Nat.mod_eq_of_lt (FloatFmt.pack_lt binary64_proper v))

theorem round32_toNat (a : Dword) : (round32 a).toNat = binary32.pack (val64 a) :=
  BitVec.toNat_ofNat _ _ |>.trans (Nat.mod_eq_of_lt (FloatFmt.pack_lt binary32_proper _))

theorem patternNaN_pack64_nan : patternNaN binary64 (pack64 .nan).toNat := by unfold patternNaN; decide

theorem pack64_inf (s : Bool) : pack64 (.inf s) = signedInfinity s := by cases s <;> decide

theorem pack64_zero (s : Bool) (e : Int) : pack64 (.fin s 0 e) = signedZero s := by cases s <;> rfl

/-- A number is rounded once when it is packed. -/
theorem correctlyRounded_pack64 {m : Nat} {v q : ℝ} (h : binary64.StandsFor m v) {neg : Bool} {e : Int}
    (hq : q = (-1) ^ neg.toNat * (v * 2 ^ e)) (hq0 : q ≠ 0) : correctlyRounded binary64 q (pack64 (.fin neg m e)).toNat := by
  rw [pack64_toNat]
  exact h.correctlyRounded_pack binary64_proper hq hq0

/-- An exact value is rounded once when it is packed. -/
theorem correctlyRounded_pack64_value {neg : Bool} {m : Nat} {e : Int} {q : ℚ} (hq : (FloatVal.fin neg m e).value = q) (hq0 : q ≠ 0) :
    correctlyRounded binary64 (q : ℝ) (pack64 (.fin neg m e)).toNat :=
  correctlyRounded_pack64 (binary64.standsFor_self m) (by rw [← hq, FloatVal.value_fin]; push_cast; rfl) (by exact_mod_cast hq0)

theorem eq_signedInfinity {a : Dword} (h : patternInfinite binary64 a.toNat) : a = signedInfinity a.msb := by
  rw [← pack64_inf, pack64, FloatFmt.pack, ← (patternInfinite_iff _ _).1 h]
  exact eq_ofNat_withSign64 a

theorem eq_signedZero {a : Dword} (h : patternValue binary64 a.toNat = 0) : a = signedZero a.msb := by
  have hu : binary64.units (a.toNat % binary64.signBit) = 0 := by
    rw [patternValue_eq_units] at h
    simpa [zpow_ne_zero] using h
  have hz : a.toNat % binary64.signBit = 0 := binary64.units_strictMono.injective (hu.trans binary64.units_zero.symm)
  have ha := eq_ofNat_withSign64 a
  rw [hz] at ha
  exact ha.trans (pack64_zero a.msb 0)

/-! ## Negation -/

/-- Two patterns that differ in the sign bit alone are negations of each other. -/
theorem FloatFmt.unpack_eq_neg {F : FloatFmt} {b c : Nat} (hm : b % F.signBit = c % F.signBit) (hn : F.negative b = !F.negative c) :
    F.unpack b = (F.unpack c).neg := by
  have he : exponentField F b = exponentField F c := by rw [← F.magnitude_div, hm, F.magnitude_div]
  have hf : fractionField F b = fractionField F c := by rw [← F.magnitude_mod, hm, F.magnitude_mod]
  simp only [exponentField, fractionField, FloatFmt.negative] at he hf hn
  simp only [FloatFmt.unpack, he, hf, hn]
  split_ifs <;> rfl

theorem val64_flipSign (b : Dword) : val64 (b ^^^ 0x8000000000000000#64) = (val64 b).neg := by
  apply FloatFmt.unpack_eq_neg
  · have h : (b ^^^ 0x8000000000000000#64).setWidth 63 = b.setWidth 63 := by rw [BitVec.setWidth_xor]; simp
    have hn := congrArg BitVec.toNat h
    rwa [BitVec.toNat_setWidth, BitVec.toNat_setWidth] at hn
  · rw [negative_toNat64, negative_toNat64, BitVec.msb_xor]
    exact Bool.xor_true _

/-! ## The operations on exact values -/

/-- A number scaled to a lower exponent keeps its value. -/
theorem scaled_mul_zpow (s : Bool) (m : Nat) {e lo : Int} (h : lo ≤ e) :
    (scaled s m e lo : ℚ) * 2 ^ lo = (FloatVal.fin s m e).value := by
  have he : (2 : ℚ) ^ e = 2 ^ (e - lo).toNat * 2 ^ lo := by
    rw [← zpow_natCast, ← zpow_add₀ two_ne_zero]; congr 1; omega
  cases s <;> simp [scaled, he, mul_assoc]

theorem minExp_le_left (e f : Int) : minExp e f ≤ e := by unfold minExp; split_ifs <;> omega
theorem minExp_le_right (e f : Int) : minExp e f ≤ f := by unfold minExp; split_ifs <;> omega

/-- A sum of numbers is exact; a zero sum is negative only when both are (R5). -/
theorem FloatVal.add_fin (s t : Bool) (m n : Nat) (e f : Int) :
    ∃ neg k lo, (FloatVal.fin s m e).add (.fin t n f) = .fin neg k lo ∧
      (FloatVal.fin neg k lo).value = (FloatVal.fin s m e).value + (FloatVal.fin t n f).value ∧ (k = 0 → neg = (s && t)) := by
  rw [← scaled_mul_zpow s m (minExp_le_left e f), ← scaled_mul_zpow t n (minExp_le_right e f), ← add_mul]
  simp only [FloatVal.add]
  generalize minExp e f = lo
  norm_cast
  generalize scaled s m e lo + scaled t n f lo = sum
  split_ifs with h
  · exact ⟨_, _, _, rfl, by simp [h], fun _ => rfl⟩
  · refine ⟨_, _, _, rfl, ?_, fun hk => absurd (Int.natAbs_eq_zero.1 hk) h⟩
    rw [FloatVal.value_fin, ← mul_assoc]
    congr 1
    rcases lt_or_ge sum 0 with hs | hs
    · simp [hs, abs_of_neg, Nat.cast_natAbs]
    · simp [not_lt.2 hs, abs_of_nonneg hs, Nat.cast_natAbs]

theorem neg_one_pow_xor (s t : Bool) : (-1 : ℚ) ^ (s ^^ t).toNat = (-1) ^ s.toNat * (-1) ^ t.toNat := by
  cases s <;> cases t <;> norm_num

/-- A product of numbers is exact (R5). -/
theorem FloatVal.value_mul_fin (s t : Bool) (m n : Nat) (e f : Int) :
    (FloatVal.fin (s ^^ t) (m * n) (e + f)).value = (FloatVal.fin s m e).value * (FloatVal.fin t n f).value := by
  simp only [FloatVal.value_fin, neg_one_pow_xor, zpow_add₀ (two_ne_zero (α := ℚ))]
  push_cast
  ring

/-- A quotient or root cut to an integer `q`, with its sticky bit, stands for what was cut. -/
theorem FloatFmt.standsFor_sticky {F : FloatFmt} {q : Nat} {x : ℝ} {inexact : Bool} (h0 : q ≤ x) (h1 : x < q + 1)
    (hx : inexact = true ↔ (q : ℝ) ≠ x) (hlong : 2 ^ (F.fbits + 1) ≤ q) : F.StandsFor (sticky q inexact) (2 * x) := by
  cases inexact with
  | false =>
    have : (q : ℝ) = x := by simpa using hx
    exact .inl (by simp [sticky, this])
  | true =>
    have hlt : (q : ℝ) < x := lt_of_le_of_ne h0 (hx.1 rfl)
    refine .inr ⟨by simp [sticky], by simp only [sticky, pow_succ] at *; omega, abs_lt.2 ?_⟩
    simp only [sticky, if_true]
    push_cast
    constructor <;> linarith

/-- The cut quotient of the model stands for the exact quotient (R5). -/
theorem standsFor_quotient {m n : Nat} (hm : m ≠ 0) (hn0 : n ≠ 0) (hn : n < 2 ^ 53) :
    binary64.StandsFor (sticky (m * 2 ^ extraBits / n) (m * 2 ^ extraBits % n != 0)) (2 * ((m * 2 ^ extraBits : ℕ) / n : ℝ)) := by
  have hlong : 2 ^ 53 ≤ m * 2 ^ extraBits / n := by
    rw [Nat.le_div_iff_mul_le (by omega), extraBits]
    omega
  generalize m * 2 ^ extraBits = a at *
  have hnpos : (0 : ℝ) < n := by exact_mod_cast Nat.pos_of_ne_zero hn0
  refine FloatFmt.standsFor_sticky Nat.cast_div_le ?_ ?_ hlong
  · rw [div_lt_iff₀ hnpos]
    exact_mod_cast Nat.lt_mul_of_div_lt (Nat.lt_succ_self _) (Nat.pos_of_ne_zero hn0)
  · rw [bne_iff_ne, not_iff_not, eq_div_iff hnpos.ne']
    norm_cast
    have := Nat.div_add_mod' a n
    omega

/-- The bit by bit root is the integer square root. -/
theorem isqrtFrom_spec (k n r : Nat) (hlo : r * r ≤ n) (hhi : n < (r + 2 ^ k) * (r + 2 ^ k)) :
    isqrtFrom k n r * isqrtFrom k n r ≤ n ∧ n < (isqrtFrom k n r + 1) * (isqrtFrom k n r + 1) := by
  induction k generalizing r with
  | zero => exact ⟨hlo, hhi⟩
  | succ k ih =>
    rw [isqrtFrom]
    split_ifs with h
    · refine ih _ h ?_
      rwa [Nat.add_assoc, ← Nat.two_mul, ← pow_succ']
    · exact ih _ hlo (by omega)

/-- The cut root of the model stands for the exact root (R11). -/
theorem standsFor_root {a : Nat} (hlo : 2 ^ 120 ≤ a) (hhi : a < 2 ^ 192) :
    binary64.StandsFor (sticky (isqrtFrom 96 a 0) (isqrtFrom 96 a 0 * isqrtFrom 96 a 0 != a)) (2 * √(a : ℝ)) := by
  obtain ⟨h0, h1⟩ := isqrtFrom_spec 96 a 0 (Nat.zero_le _) (by simpa [← pow_add] using hhi)
  generalize isqrtFrom 96 a 0 = r at *
  refine FloatFmt.standsFor_sticky ?_ ?_ ?_ ?_
  · exact Real.le_sqrt_of_sq_le (by rw [sq]; exact_mod_cast h0)
  · rw [Real.sqrt_lt' (by positivity), sq]; exact_mod_cast h1
  · rw [bne_iff_ne, not_iff_not, eq_comm (a := (r : ℝ)), Real.sqrt_eq_iff_mul_self_eq (by positivity) (by positivity)]
    norm_cast
    exact eq_comm
  · have : 2 ^ 53 * 2 ^ 53 < (r + 1) * (r + 1) := lt_of_lt_of_le (by norm_num) (hlo.trans h1.le)
    exact Nat.lt_succ_iff.1 (lt_of_mul_self_lt_mul_self₀ (Nat.zero_le _) this)

end Sys2Proof.Machine
end

section
/-! PROOFS. The binary64 operations and `round32` are the exact result rounded once (R5, R7, R11). -/

namespace Sys2Proof.Machine

/-! ## The operations on numbers (R5, R11) -/

/-- The value of the quotient that the model packs (R5). -/
theorem value_div_value (s t : Bool) (m n : Nat) (e f : Int) :
    (((FloatVal.fin s m e).value / (FloatVal.fin t n f).value : ℚ) : ℝ) =
      (-1) ^ (s ^^ t).toNat * (2 * ((m * 2 ^ extraBits : ℕ) / n : ℝ) * 2 ^ (e - f - extraBits - 1)) := by
  have hpow : (2 : ℝ) ^ (e - f - extraBits - 1) = 2 ^ e / 2 ^ f / 2 ^ extraBits / 2 := by
    rw [zpow_sub₀ two_ne_zero, zpow_sub₀ two_ne_zero, zpow_sub₀ two_ne_zero, zpow_natCast, zpow_one]
  have hsign : ((-1 : ℝ) ^ (s ^^ t).toNat) = (-1) ^ s.toNat / (-1) ^ t.toNat := by cases s <;> cases t <;> norm_num
  rw [hpow, hsign, FloatVal.value_fin, FloatVal.value_fin]
  push_cast
  field_simp

/-- The value of the root that the model packs (R11): the exponent left is even. -/
theorem sqrt_mul_zpow (m : Nat) {e : Int} {k : Nat} (hk : (e - k) % 2 = 0) :
    √((m : ℝ) * 2 ^ e) = 2 * √((m * 2 ^ k : ℕ) : ℝ) * 2 ^ ((e - k) / 2 - 1) := by
  obtain ⟨j, rfl⟩ : ∃ j, e = k + 2 * j := ⟨(e - k) / 2, by omega⟩
  have hsq : (m : ℝ) * 2 ^ (k + 2 * j : ℤ) = (m * 2 ^ k : ℕ) * (2 ^ j) ^ 2 := by
    rw [zpow_add₀ two_ne_zero, zpow_natCast, mul_comm 2 j, zpow_mul]
    push_cast
    rw [mul_assoc]
    rfl
  rw [hsq, Real.sqrt_mul (by positivity), Real.sqrt_sq (by positivity), show (k + 2 * j - k : ℤ) / 2 - 1 = j - 1 by omega,
    zpow_sub_one₀ two_ne_zero]
  ring

section
variable {a b : Dword} (ha : patternFinite binary64 a.toNat) (hb : patternFinite binary64 b.toNat)
include ha hb

theorem add64_finite :
    (patternValue binary64 a.toNat + patternValue binary64 b.toNat ≠ 0 → correctlyRounded binary64
      ((patternValue binary64 a.toNat + patternValue binary64 b.toNat : ℚ) : ℝ) (add64 a b).toNat) ∧
    (patternValue binary64 a.toNat + patternValue binary64 b.toNat = 0 → add64 a b = signedZero (a.msb && b.msb)) := by
  obtain ⟨m, e, hva, -, hx⟩ := val64_fin ha
  obtain ⟨n, f, hvb, -, hy⟩ := val64_fin hb
  obtain ⟨neg, k, lo, hadd, hval, hneg⟩ := FloatVal.add_fin a.msb b.msb m n e f
  rw [add64, hva, hvb, hadd, hx, hy, ← hval]
  refine ⟨correctlyRounded_pack64_value rfl, fun h0 => ?_⟩
  obtain rfl := (FloatVal.value_fin_eq_zero_iff neg k lo).1 h0
  rw [pack64_zero, hneg rfl]

theorem mul64_finite :
    (patternValue binary64 a.toNat * patternValue binary64 b.toNat ≠ 0 → correctlyRounded binary64
      ((patternValue binary64 a.toNat * patternValue binary64 b.toNat : ℚ) : ℝ) (mul64 a b).toNat) ∧
    (patternValue binary64 a.toNat * patternValue binary64 b.toNat = 0 → mul64 a b = signedZero (a.msb ^^ b.msb)) := by
  obtain ⟨m, e, hva, -, hx⟩ := val64_fin ha
  obtain ⟨n, f, hvb, -, hy⟩ := val64_fin hb
  rw [mul64, hva, hvb, FloatVal.mul, hx, hy, ← FloatVal.value_mul_fin]
  refine ⟨correctlyRounded_pack64_value rfl, fun h0 => ?_⟩
  rw [(FloatVal.value_fin_eq_zero_iff _ _ _).1 h0, pack64_zero]

theorem div64_finite :
    (patternValue binary64 a.toNat ≠ 0 → patternValue binary64 b.toNat ≠ 0 → correctlyRounded binary64
      ((patternValue binary64 a.toNat / patternValue binary64 b.toNat : ℚ) : ℝ) (div64 a b).toNat) ∧
    (patternValue binary64 a.toNat = 0 → patternValue binary64 b.toNat ≠ 0 → div64 a b = signedZero (a.msb ^^ b.msb)) ∧
    (patternValue binary64 a.toNat ≠ 0 → patternValue binary64 b.toNat = 0 → div64 a b = signedInfinity (a.msb ^^ b.msb)) ∧
    (patternValue binary64 a.toNat = 0 → patternValue binary64 b.toNat = 0 → patternNaN binary64 (div64 a b).toNat) := by
  obtain ⟨m, e, hva, -, hx⟩ := val64_fin ha
  obtain ⟨n, f, hvb, hn, hy⟩ := val64_fin hb
  rw [div64, hva, hvb, hx, hy]
  simp only [ne_eq, FloatVal.value_fin_eq_zero_iff, FloatVal.div]
  refine ⟨fun hm hn0 => ?_, ?_, ?_, ?_⟩
  · rw [if_neg hn0]
    have hx0 := (FloatVal.value_fin_eq_zero_iff a.msb m e).not.2 hm
    have hy0 := (FloatVal.value_fin_eq_zero_iff b.msb n f).not.2 hn0
    refine correctlyRounded_pack64 (standsFor_quotient hm hn0 hn) ?_ (by exact_mod_cast div_ne_zero hx0 hy0)
    exact value_div_value _ _ _ _ _ _
  · rintro rfl hn0
    rw [if_neg hn0, Nat.zero_mul, Nat.zero_div, Nat.zero_mod]
    exact pack64_zero _ _
  · rintro hm rfl
    rw [if_pos rfl, if_neg hm, pack64_inf]
  · rintro rfl rfl
    exact patternNaN_pack64_nan

end

theorem sqrt64_finite {a : Dword} (ha : patternFinite binary64 a.toNat) :
    (0 < patternValue binary64 a.toNat →
      correctlyRounded binary64 (Real.sqrt (patternValue binary64 a.toNat : ℝ)) (sqrt64 a).toNat) ∧
    (patternValue binary64 a.toNat = 0 → sqrt64 a = a) ∧
    (patternValue binary64 a.toNat < 0 → patternNaN binary64 (sqrt64 a).toNat) := by
  obtain ⟨m, e, hva, hm, hx⟩ := val64_fin ha
  rw [FloatVal.value_fin] at hx
  have habs : (0 : ℚ) ≤ m * 2 ^ e := by positivity
  refine ⟨fun hpos => ?_, fun h0 => ?_, fun hneg => ?_⟩
  · have hmsb : a.msb = false := Bool.eq_false_of_not_eq_true fun hmsb => by
      rw [hx, hmsb] at hpos
      simp at hpos
      linarith
    have hm0 : m ≠ 0 := by rintro rfl; simp [hx] at hpos
    have hval : (patternValue binary64 a.toNat : ℝ) = m * 2 ^ e := by rw [hx, hmsb]; simp
    have hroot := sqrt_mul_zpow m (e := e) (k := extraBits + (e % 2).toNat) (by simp only [extraBits]; omega)
    have hlo : 2 ^ 120 ≤ m * 2 ^ (extraBits + (e % 2).toNat) :=
      (Nat.pow_le_pow_right two_pos (Nat.le_add_right _ _)).trans (Nat.le_mul_of_pos_left _ (Nat.pos_of_ne_zero hm0))
    have hhi : m * 2 ^ (extraBits + (e % 2).toNat) < 2 ^ 192 := calc
      m * 2 ^ (extraBits + (e % 2).toNat) ≤ m * 2 ^ 121 :=
        Nat.mul_le_mul_left _ (Nat.pow_le_pow_right two_pos (by simp only [extraBits]; omega))
      _ < 2 ^ 192 := by omega
    rw [sqrt64, hva, hmsb, FloatVal.sqrt, if_neg hm0, if_neg (by decide)]
    refine correctlyRounded_pack64 (standsFor_root hlo hhi) ?_ (Real.sqrt_ne_zero'.2 (by exact_mod_cast hpos))
    rw [hval, hroot]
    simp
  · obtain rfl := (FloatVal.value_fin_eq_zero_iff a.msb m e).1 (hx.symm.trans h0)
    rw [sqrt64, hva, FloatVal.sqrt, if_pos rfl, pack64_zero]
    exact (eq_signedZero h0).symm
  · have hmsb : a.msb = true := Bool.eq_true_of_not_eq_false fun hmsb => by
      rw [hx, hmsb] at hneg
      simp at hneg
      linarith
    have hm0 : m ≠ 0 := by rintro rfl; simp [hx] at hneg
    rw [sqrt64, hva, hmsb, FloatVal.sqrt, if_neg hm0, if_pos rfl]
    exact patternNaN_pack64_nan

theorem sub64_eq_add64_flipSign (a b : Dword) : sub64 a b = add64 a (b ^^^ 0x8000000000000000#64) := by
  rw [sub64, add64, val64_flipSign]

theorem finiteArithmetic_holds : finiteArithmetic := by
  refine ⟨fun a b ha hb => ?_, sub64_eq_add64_flipSign⟩
  obtain ⟨hadd, hadd0⟩ := add64_finite ha hb
  obtain ⟨hmul, hmul0⟩ := mul64_finite ha hb
  obtain ⟨hdiv, hdiv0, hdivInf, hdivNaN⟩ := div64_finite ha hb
  exact ⟨hadd, hadd0, hmul, hmul0, hdiv, hdiv0, hdivInf, hdivNaN, sqrt64_finite ha⟩

/-! ## The operations on infinities and NaNs (R5, R9) -/

theorem infinite_infinite_arithmetic {a b : Dword} (ha : patternInfinite binary64 a.toNat) (hb : patternInfinite binary64 b.toNat) :
    (a.msb = b.msb → add64 a b = a) ∧ (a.msb ≠ b.msb → patternNaN binary64 (add64 a b).toNat) ∧
    mul64 a b = signedInfinity (a.msb ^^ b.msb) ∧ patternNaN binary64 (div64 a b).toNat := by
  rw [add64, mul64, div64, val64_inf ha, val64_inf hb]
  refine ⟨fun h => ?_, fun h => ?_, pack64_inf _, patternNaN_pack64_nan⟩
  · rw [FloatVal.add, if_pos h, pack64_inf, ← eq_signedInfinity ha]
  · rw [FloatVal.add, if_neg h]
    exact patternNaN_pack64_nan

theorem infinite_finite_arithmetic {a b : Dword} (ha : patternInfinite binary64 a.toNat) (hb : patternFinite binary64 b.toNat) :
    add64 a b = a ∧ add64 b a = a ∧ div64 a b = signedInfinity (a.msb ^^ b.msb) ∧ div64 b a = signedZero (a.msb ^^ b.msb) ∧
    (patternValue binary64 b.toNat ≠ 0 →
      mul64 a b = signedInfinity (a.msb ^^ b.msb) ∧ mul64 b a = signedInfinity (a.msb ^^ b.msb)) ∧
    (patternValue binary64 b.toNat = 0 → patternNaN binary64 (mul64 a b).toNat ∧ patternNaN binary64 (mul64 b a).toNat) := by
  obtain ⟨n, f, hvb, -, hy⟩ := val64_fin hb
  have haa := eq_signedInfinity ha
  simp only [add64, mul64, div64, val64_inf ha, hvb, FloatVal.add, FloatVal.mul, FloatVal.div, hy, ne_eq,
    FloatVal.value_fin_eq_zero_iff, Bool.xor_comm b.msb a.msb]
  refine ⟨(pack64_inf _).trans haa.symm, (pack64_inf _).trans haa.symm, pack64_inf _, pack64_zero _ _, fun h => ?_, fun h => ?_⟩
  · rw [if_neg h]
    exact ⟨pack64_inf _, pack64_inf _⟩
  · rw [if_pos h]
    exact ⟨patternNaN_pack64_nan, patternNaN_pack64_nan⟩

theorem sqrt64_infinite {a : Dword} (ha : patternInfinite binary64 a.toNat) :
    (a.msb = false → sqrt64 a = a) ∧ (a.msb = true → patternNaN binary64 (sqrt64 a).toNat) := by
  rw [sqrt64, val64_inf ha]
  refine ⟨fun h => ?_, fun h => ?_⟩
  · rw [h]
    exact (pack64_inf false).trans (h ▸ eq_signedInfinity ha).symm
  · rw [h]
    exact patternNaN_pack64_nan

theorem FloatVal.add_nan (v : FloatVal) : v.add .nan = .nan := by cases v <;> rfl
theorem FloatVal.mul_nan (v : FloatVal) : v.mul .nan = .nan := by cases v <;> rfl
theorem FloatVal.div_nan (v : FloatVal) : v.div .nan = .nan := by cases v <;> rfl

theorem nan_arithmetic {a b : Dword} (h : patternNaN binary64 a.toNat ∨ patternNaN binary64 b.toNat) :
    patternNaN binary64 (add64 a b).toNat ∧ patternNaN binary64 (mul64 a b).toNat ∧ patternNaN binary64 (div64 a b).toNat := by
  rcases h with h | h
  · rw [add64, mul64, div64, val64_nan h]
    exact ⟨patternNaN_pack64_nan, patternNaN_pack64_nan, patternNaN_pack64_nan⟩
  · rw [add64, mul64, div64, val64_nan h, FloatVal.add_nan, FloatVal.mul_nan, FloatVal.div_nan]
    exact ⟨patternNaN_pack64_nan, patternNaN_pack64_nan, patternNaN_pack64_nan⟩

theorem sqrt64_nan {a : Dword} (h : patternNaN binary64 a.toNat) : patternNaN binary64 (sqrt64 a).toNat := by
  rw [sqrt64, val64_nan h]
  exact patternNaN_pack64_nan

theorem specialArithmetic_holds : specialArithmetic :=
  ⟨fun _ _ => infinite_infinite_arithmetic, fun _ _ => infinite_finite_arithmetic, fun _ => sqrt64_infinite,
    fun _ _ => nan_arithmetic, fun _ => sqrt64_nan⟩

/-! ## `round32` (R7) -/

theorem round32_finite {a : Dword} (ha : patternFinite binary64 a.toNat) (h0 : patternValue binary64 a.toNat ≠ 0) :
    correctlyRounded binary32 (patternValue binary64 a.toNat : ℝ) (round32 a).toNat := by
  obtain ⟨m, e, hva, -, hx⟩ := val64_fin ha
  rw [round32_toNat, hva]
  exact (binary32.standsFor_self m).correctlyRounded_pack binary32_proper (by rw [hx, FloatVal.value_fin]; push_cast; rfl)
    (by exact_mod_cast h0)

theorem round32_zero {a : Dword} (h0 : patternValue binary64 a.toNat = 0) : round32 a = if a.msb then 0x80000000#32 else 0 := by
  rw [eq_signedZero h0]
  cases a.msb <;> decide

theorem round32_infinite {a : Dword} (h : patternInfinite binary64 a.toNat) :
    round32 a = if a.msb then 0xFF800000#32 else 0x7F800000#32 := by
  rw [eq_signedInfinity h]
  cases a.msb <;> decide

theorem round32_nan {a : Dword} (h : patternNaN binary64 a.toNat) : patternNaN binary32 (round32 a).toNat := by
  rw [round32_toNat, val64_nan h]
  unfold patternNaN; decide

theorem narrowing_holds : narrowing := fun _ =>
  ⟨round32_finite, fun _ => round32_zero, round32_infinite, round32_nan⟩

/-- Settles O33: `roundMag` finds the significand nearest in its last place (`RoundsTo`), which is the nearest pattern of all
(`IsNearest`), and each operation packs a significand that stands for its exact result (`StandsFor`). -/
theorem roundingIsToNearestEven : Obligations.RoundingIsToNearestEven := by
  refine ⟨fun F m e hF => ?_, finiteArithmetic_holds, specialArithmetic_holds, narrowing_holds⟩
  rcases hF with rfl | rfl
  · exact binary32_proper.roundMag_toNearest m e
  · exact binary64_proper.roundMag_toNearest m e

end Sys2Proof.Machine
end

section
/-! PROOFS. The comparisons (R10) and `to64` (R7). -/

namespace Sys2Proof.Machine

/-! ## What the predicates on patterns say (R10) -/

theorem isNaN64_iff (a : Dword) : isNaN64 a = true ↔ patternNaN binary64 a.toNat := by
  unfold isNaN64
  rcases pattern_cases binary64 a.toNat with h | h | h
  · obtain ⟨m, e, hv, -⟩ := val64_fin h
    simp [hv, patternNaN_iff, ((patternFinite_iff _ _).1 h).le]
  · simp [val64_inf h, patternNaN_iff, ((patternInfinite_iff _ _).1 h).le]
  · simp [val64_nan h, h]

theorem isFinite64_iff (a : Dword) : isFinite64 a = true ↔ patternFinite binary64 a.toNat := by
  unfold isFinite64
  rcases pattern_cases binary64 a.toNat with h | h | h
  · obtain ⟨m, e, hv, -⟩ := val64_fin h
    simp [hv, h]
  · simp [val64_inf h, patternFinite_iff, ((patternInfinite_iff _ _).1 h).ge]
  · simp [val64_nan h, patternFinite_iff, ((patternNaN_iff _ _).1 h).le]

theorem isNaN32_iff (w : Word) : isNaN32 w = true ↔ patternNaN binary32 w.toNat := by
  unfold isNaN32
  rcases pattern_cases binary32 w.toNat with h | h | h
  · obtain ⟨m, e, hv, -⟩ := FloatFmt.unpack_fin h
    simp [hv, patternNaN_iff, ((patternFinite_iff _ _).1 h).le]
  · simp [FloatFmt.unpack_inf h, patternNaN_iff, ((patternInfinite_iff _ _).1 h).le]
  · simp [FloatFmt.unpack_nan h, h]

/-- The value of an exact value among the rationals with the two infinities; of no use for a NaN. -/
def FloatVal.extended : FloatVal → WithBot (WithTop ℚ)
  | .nan => ⊥
  | .inf s => if s then ⊥ else ((⊤ : WithTop ℚ) : WithBot (WithTop ℚ))
  | .fin s m e => (((FloatVal.fin s m e).value : WithTop ℚ) : WithBot (WithTop ℚ))

theorem patternExtended_eq {F : FloatFmt} {b : Nat} (h : ¬patternNaN F b) : patternExtended F b = (F.unpack b).extended := by
  rcases pattern_cases F b with hf | hi | hn
  · obtain ⟨m, e, hu, -, -, hv⟩ := FloatFmt.unpack_fin hf
    rw [patternExtended, if_pos (show exponentField F b ≠ _ from hf), hv, hu]; rfl
  · rw [patternExtended, if_neg (not_not.2 hi.1), FloatFmt.unpack_inf hi, FloatVal.extended]
    exact if_congr (F.signField_iff b) rfl rfl
  · exact absurd hn h

/-! ## The comparisons (R10) -/

theorem scaled_lt_iff (s t : Bool) (m n : Nat) (e f : Int) :
    scaled s m e (minExp e f) < scaled t n f (minExp e f) ↔ (FloatVal.fin s m e).value < (FloatVal.fin t n f).value := by
  rw [← scaled_mul_zpow s m (minExp_le_left e f), ← scaled_mul_zpow t n (minExp_le_right e f),
    mul_lt_mul_iff_left₀ (by positivity), Int.cast_lt]

theorem scaled_eq_iff (s t : Bool) (m n : Nat) (e f : Int) :
    scaled s m e (minExp e f) = scaled t n f (minExp e f) ↔ (FloatVal.fin s m e).value = (FloatVal.fin t n f).value := by
  rw [← scaled_mul_zpow s m (minExp_le_left e f), ← scaled_mul_zpow t n (minExp_le_right e f),
    mul_left_inj' (by positivity), Int.cast_inj]

theorem FloatVal.lt_iff {u v : FloatVal} (hu : u ≠ .nan) (hv : v ≠ .nan) : u.lt v = true ↔ u.extended < v.extended := by
  match u, v, hu, hv with
  | .inf true, .inf true, _, _ => simp [FloatVal.lt, FloatVal.extended]
  | .inf true, .inf false, _, _ => simp [FloatVal.lt, FloatVal.extended]
  | .inf false, .inf t, _, _ => cases t <;> simp [FloatVal.lt, FloatVal.extended]
  | .inf s, .fin t n f, _, _ => cases s <;> simp [FloatVal.lt, FloatVal.extended, -FloatVal.value_fin]
  | .fin s m e, .inf true, _, _ => simp [FloatVal.lt, FloatVal.extended]
  | .fin s m e, .inf false, _, _ => exact iff_of_true rfl (WithBot.coe_lt_coe.2 (WithTop.coe_lt_top _))
  | .fin s m e, .fin t n f, _, _ =>
    simp only [FloatVal.lt, FloatVal.extended, decide_eq_true_eq, scaled_lt_iff, WithBot.coe_lt_coe, WithTop.coe_lt_coe]

theorem FloatVal.eq_iff {u v : FloatVal} (hu : u ≠ .nan) (hv : v ≠ .nan) : u.eq v = true ↔ u.extended = v.extended := by
  match u, v, hu, hv with
  | .inf s, .inf t, _, _ => cases s <;> cases t <;> simp [FloatVal.eq, FloatVal.extended]
  | .inf s, .fin t n f, _, _ => cases s <;> simp [FloatVal.eq, FloatVal.extended, -FloatVal.value_fin]
  | .fin s m e, .inf t, _, _ => cases t <;> simp [FloatVal.eq, FloatVal.extended, -FloatVal.value_fin]
  | .fin s m e, .fin t n f, _, _ =>
    simp only [FloatVal.eq, FloatVal.extended, decide_eq_true_eq, scaled_eq_iff, WithBot.coe_inj, WithTop.coe_inj]

theorem FloatVal.lt_nan (v : FloatVal) : v.lt .nan = false := by cases v <;> rfl
theorem FloatVal.eq_nan (v : FloatVal) : v.eq .nan = false := by cases v <;> rfl

theorem val64_eq_nan_iff (a : Dword) : val64 a = .nan ↔ isNaN64 a = true := by
  unfold isNaN64
  cases val64 a <;> simp

theorem compare_nan {a b : Dword} (h : isNaN64 a = true ∨ isNaN64 b = true) :
    lt64 a b = false ∧ eq64 a b = false ∧ le64 a b = false := by
  have hlt : lt64 a b = false := by
    rcases h with h | h <;> rw [lt64, (val64_eq_nan_iff _).2 h]
    · rfl
    · exact FloatVal.lt_nan _
  have heq : eq64 a b = false := by
    rcases h with h | h <;> rw [eq64, (val64_eq_nan_iff _).2 h]
    · rfl
    · exact FloatVal.eq_nan _
  exact ⟨hlt, heq, by rw [le64, hlt, heq]; rfl⟩

section
variable {a b : Dword} (ha : isNaN64 a = false) (hb : isNaN64 b = false)
include ha

theorem val64_ne_nan : val64 a ≠ .nan := fun h => by simp [(val64_eq_nan_iff a).1 h] at ha

theorem patternExtended_eq_val64 : patternExtended binary64 a.toNat = (val64 a).extended :=
  patternExtended_eq fun h => by simp [(isNaN64_iff a).2 h] at ha

include hb

theorem lt64_iff : lt64 a b = true ↔ patternExtended binary64 a.toNat < patternExtended binary64 b.toNat := by
  rw [patternExtended_eq_val64 ha, patternExtended_eq_val64 hb]
  exact FloatVal.lt_iff (val64_ne_nan ha) (val64_ne_nan hb)

theorem eq64_iff : eq64 a b = true ↔ patternExtended binary64 a.toNat = patternExtended binary64 b.toNat := by
  rw [patternExtended_eq_val64 ha, patternExtended_eq_val64 hb]
  exact FloatVal.eq_iff (val64_ne_nan ha) (val64_ne_nan hb)

theorem le64_iff : le64 a b = true ↔ patternExtended binary64 a.toNat ≤ patternExtended binary64 b.toNat := by
  rw [le64, Bool.or_eq_true, lt64_iff ha hb, eq64_iff ha hb, le_iff_lt_or_eq]

end

/-- Settles O35: on numbers both sides compare the values scaled to one exponent. -/
theorem ieeeComparisons : Obligations.IeeeComparisons :=
  ⟨fun a => ⟨isNaN64_iff a, isFinite64_iff a⟩, fun _ _ => compare_nan,
    fun _ _ ha hb => ⟨lt64_iff ha hb, eq64_iff ha hb, le64_iff ha hb⟩, by decide⟩

/-! ## `to64` (R7) -/

/-- A significand that fits, in a place the format has, is packed exactly. -/
theorem FloatFmt.roundMag_exact {F : FloatFmt} (hF : F.Proper) {m : Nat} {e : Int} (hm : m < 2 ^ (F.fbits + 1)) (he : F.emin ≤ e)
    (hk : e ≤ F.emin + (2 ^ F.ebits - 3 : ℕ)) :
    F.roundMag m e < F.infBits ∧ (F.units (F.roundMag m e) : ℚ) * 2 ^ F.emin = m * 2 ^ e := by
  obtain ⟨k, rfl⟩ : ∃ k : ℕ, e = F.emin + k := ⟨(e - F.emin).toNat, by omega⟩
  obtain ⟨n, hn⟩ := F.exists_units_eq k hm
  have hninf : n < F.infBits := by
    rw [← F.units_strictMono.lt_iff_lt, hn, hF.units_near_inf.1, ← pow_succ']
    exact Nat.mul_lt_mul_of_lt_of_le hm (Nat.pow_le_pow_right two_pos (by omega)) (by positivity)
  have hy : (m : ℝ) * 2 ^ (F.emin + k) / 2 ^ F.emin = F.units n := by
    rw [hn, zpow_add₀ two_ne_zero, zpow_natCast]; push_cast; field_simp
  rw [((F.standsFor_self m).isNearest_roundMag hF _).eq_of_units_eq hninf hy, hn, zpow_add₀ two_ne_zero, zpow_natCast]
  exact ⟨hninf, by push_cast; ring⟩

theorem to64_toNat (w : Word) : (to64 w).toNat = binary64.pack (binary32.unpack w.toNat) := pack64_toNat _

/-- `to64` of a number has its sign and its value. -/
theorem to64_finite {w : Word} (h : patternFinite binary32 w.toNat) :
    patternFinite binary64 (to64 w).toNat ∧ (to64 w).msb = w.msb ∧
      patternValue binary64 (to64 w).toNat = patternValue binary32 w.toNat := by
  obtain ⟨m, e, hu, hm, ⟨he, hk⟩, hv⟩ := FloatFmt.unpack_fin h
  rw [negative_toNat32] at hu
  obtain ⟨hlt, hval⟩ := binary64.roundMag_exact (m := m) (e := e) binary64_proper (hm.trans (by decide))
    (le_trans (by decide) he) (hk.trans (by decide))
  have hs := hlt.trans binary64.infBits_lt_signBit
  rw [← negative_toNat64, patternFinite_iff, patternValue_eq_units, hv, to64_toNat, hu, FloatFmt.pack, FloatFmt.withSign_mod _ hs,
    FloatFmt.negative_withSign _ hs, hval, FloatVal.value_fin]
  exact ⟨hlt, rfl, rfl⟩

/-- A number of binary32 is the rounding of its image. -/
theorem round32_to64_finite {w : Word} (h : patternFinite binary32 w.toNat) : round32 (to64 w) = w := by
  obtain ⟨hfin, hmsb, hval⟩ := to64_finite h
  obtain ⟨m, e, hv, -, hx⟩ := val64_fin hfin
  have hmag : (m : ℚ) * 2 ^ e = binary32.units (w.toNat % binary32.signBit) * 2 ^ binary32.emin := by
    rw [hx, FloatVal.value_fin, patternValue_eq_units, negative_toNat32, hmsb] at hval
    exact mul_left_cancel₀ (pow_ne_zero _ (by norm_num)) hval
  have hy : (m : ℝ) * 2 ^ e / 2 ^ binary32.emin = binary32.units (w.toNat % binary32.signBit) := by
    have := congrArg (Rat.cast : ℚ → ℝ) hmag
    push_cast at this
    rw [this, mul_div_cancel_right₀ _ (by positivity)]
  rw [round32, hv, hmsb, FloatFmt.pack, ((binary32.standsFor_self m).isNearest_roundMag binary32_proper e).eq_of_units_eq
    ((patternFinite_iff _ _).1 h) hy]
  exact (eq_ofNat_withSign32 w).symm

theorem infinite_of_not_finite {F : FloatFmt} {b : Nat} (hn : ¬patternNaN F b) (hf : ¬patternFinite F b) : patternInfinite F b :=
  ((pattern_cases F b).resolve_left hf).resolve_right hn

theorem to64_number {w : Word} (h : isNaN32 w = false) :
    isNaN64 (to64 w) = false ∧ (to64 w).msb = w.msb ∧
      patternExtended binary64 (to64 w).toNat = patternExtended binary32 w.toNat ∧ round32 (to64 w) = w := by
  have hn : ¬patternNaN binary32 w.toNat := fun hn => by simp [(isNaN32_iff w).2 hn] at h
  by_cases hf : patternFinite binary32 w.toNat
  · obtain ⟨hfin, hmsb, hval⟩ := to64_finite hf
    refine ⟨?_, hmsb, ?_, round32_to64_finite hf⟩
    · rw [Bool.eq_false_iff, ne_eq, isNaN64_iff, patternNaN_iff, not_lt]
      exact ((patternFinite_iff _ _).1 hfin).le
    · rw [patternExtended, if_pos (show exponentField binary64 _ ≠ _ from hfin), hval, patternExtended,
        if_pos (show exponentField binary32 _ ≠ _ from hf)]
  · have hinf := infinite_of_not_finite hn hf
    have hw := eq_ofNat_withSign32 w
    rw [(patternInfinite_iff _ _).1 hinf] at hw
    generalize w.msb = s at hw
    subst hw
    cases s <;> decide

/-- Settles O34: the image of a number is exact, and the number is the rounding of its image; infinities and NaNs by their patterns. -/
theorem to64IsExact : Obligations.To64IsExact := by
  refine fun w => ⟨isNaN32_iff w, fun h => ?_, fun h => ?_⟩
  · obtain ⟨hnan, hmsb, hext, hround⟩ := to64_number h
    exact ⟨hnan, by simpa [BitVec.msb_eq_getLsbD_last] using hmsb, hext, hround⟩
  · rw [to64, FloatFmt.unpack_nan ((isNaN32_iff w).1 h)]
    decide

end Sys2Proof.Machine
end

section
/-! PROOFS. Written NaNs (R9) and the transcendental parameters (R11). -/

namespace Sys2Proof.Machine

/-! ## Quiet NaNs (R9) -/

theorem isQuietNaN64_iff (q : Dword) : isQuietNaN64 q = true ↔ q.extractLsb' 51 12 = 0xFFF#12 := by
  rw [isQuietNaN64, Bool.and_eq_true, isNaN64_iff, BitVec.getLsbD, Nat.testBit_eq_decide_div_mod_eq, decide_eq_true_eq,
    ← BitVec.toNat_inj, BitVec.extractLsb'_toNat, Nat.shiftRight_eq_div_pow]
  simp only [patternNaN, exponentField, fractionField, binary64, BitVec.toNat_ofNat]
  omega

theorem isQuietNaN32_iff (q : Word) : isQuietNaN32 q = true ↔ q.extractLsb' 22 9 = 0x1FF#9 := by
  rw [isQuietNaN32, Bool.and_eq_true, isNaN32_iff, BitVec.getLsbD, Nat.testBit_eq_decide_div_mod_eq, decide_eq_true_eq,
    ← BitVec.toNat_inj, BitVec.extractLsb'_toNat, Nat.shiftRight_eq_div_pow]
  simp only [patternNaN, exponentField, fractionField, binary32, BitVec.toNat_ofNat]
  omega

theorem isQuietNaN64_quietNaN64 (d : BitVec 52) : isQuietNaN64 (quietNaN64 d) = true :=
  (isQuietNaN64_iff _).2 <| (BitVec.extractLsb'_append_eq_of_le (by decide)).trans BitVec.extractLsb'_append_eq_right

theorem isQuietNaN32_quietNaN32 (d : BitVec 23) : isQuietNaN32 (quietNaN32 d) = true :=
  (isQuietNaN32_iff _).2 <| (BitVec.extractLsb'_append_eq_of_le (by decide)).trans BitVec.extractLsb'_append_eq_right

theorem quietNaN64_append (x : BitVec 1) (y : BitVec 51) : quietNaN64 (x ++ y) = x ++ 0xFFF#12 ++ y :=
  congrArg₂ (fun u v => u ++ 0xFFF#12 ++ v) BitVec.extractLsb'_append_eq_left BitVec.extractLsb'_append_eq_right

theorem quietNaN32_append (x : BitVec 1) (y : BitVec 22) : quietNaN32 (x ++ y) = x ++ 0x1FF#9 ++ y :=
  congrArg₂ (fun u v => u ++ 0x1FF#9 ++ v) BitVec.extractLsb'_append_eq_left BitVec.extractLsb'_append_eq_right

theorem exists_quietNaN64 {q : Dword} (h : isQuietNaN64 q = true) : ∃ d, quietNaN64 d = q := by
  refine ⟨q.extractLsb' 63 1 ++ q.extractLsb' 0 51, ?_⟩
  rw [quietNaN64_append, ← (isQuietNaN64_iff q).1 h, BitVec.extractLsb'_append_extractLsb'_eq_extractLsb' (by decide)]
  exact BitVec.extractLsb'_append_extractLsb' (w := 13) (len := 51)

theorem exists_quietNaN32 {q : Word} (h : isQuietNaN32 q = true) : ∃ d, quietNaN32 d = q := by
  refine ⟨q.extractLsb' 31 1 ++ q.extractLsb' 0 22, ?_⟩
  rw [quietNaN32_append, ← (isQuietNaN32_iff q).1 h, BitVec.extractLsb'_append_extractLsb'_eq_extractLsb' (by decide)]
  exact BitVec.extractLsb'_append_extractLsb' (w := 10) (len := 22)

/-! ## Free draws (R9) -/

theorem State.fresh64_isNaN (s : State) {v : Dword} (h : isNaN64 v = true) :
    s.fresh64 v = (quietNaN64 (Config.nanDraw64 s.draws), s.setDraws (s.draws + 1)) := by
  rw [State.fresh64, if_pos h]

theorem State.fresh32_isNaN (s : State) {w : Word} (h : isNaN32 w = true) :
    s.fresh32 w = (quietNaN32 (Config.nanDraw32 s.draws), s.setDraws (s.draws + 1)) := by
  rw [State.fresh32, if_pos h]

/-- What a result is written as depends on the count of draws alone. -/
theorem State.fresh64_word_of_draws {s t : State} (h : s.draws = t.draws) (v : Dword) : (s.fresh64 v).1 = (t.fresh64 v).1 := by
  simp only [State.fresh64, h]
  split_ifs <;> rfl

theorem State.fresh64_draws (s : State) (v : Dword) :
    (s.fresh64 v).2 = s.setDraws (s.draws + if isNaN64 v then 1 else 0) := by
  rw [State.fresh64_state]
  split_ifs <;> rfl

/-- A coefficient write draws once for each NaN among its five values. -/
theorem State.freshCoefs_draws (s : State) (c : Coefs) :
    (s.freshCoefs c).2 = s.setDraws (s.draws + coefOrder.countP (fun q => isNaN64 (c.get q))) := by
  simp only [State.freshCoefs, State.fresh64_draws, State.setDraws_setDraws, State.setDraws_draws, coefOrder, List.countP_cons,
    List.countP_nil, Coefs.get]
  congr 1
  omega

/-- Each coefficient is written with the draw that the NaNs before it leave. -/
theorem State.freshCoefs_get (s : State) (c : Coefs) {k : Nat} {r : CoefReg} (h : coefOrder[k]? = some r) :
    (s.freshCoefs c).1.get r =
      ((s.setDraws (s.draws + (coefOrder.take k).countP (fun q => isNaN64 (c.get q)))).fresh64 (c.get r)).1 := by
  have hk : k < 5 := (List.getElem?_eq_some_iff.1 h).1
  interval_cases k <;> obtain rfl := Option.some.inj h <;>
    simp only [State.freshCoefs, State.fresh64_draws, State.setDraws_setDraws, State.setDraws_draws, Coefs.get] <;>
    refine State.fresh64_word_of_draws ?_ _ <;>
    simp [coefOrder, List.countP_cons] <;> omega

/-- What CALC leaves where it computes coefficients (R132). -/
theorem exec_calcCoef_computes {s t : State} {ch : BitVec 8} {f res : Dword} (h : exec (.calcCoef ch f res) s = .next t)
    (hc : computesCoefficients (.calcCoef ch f res) s) :
    t = (s.writeCoef ch (coefFn s.cfg.expForm f res)).complete (Instr.calcCoef ch f res).len := by
  obtain ⟨hcur, hch, hf0, hf1, hres⟩ := hc
  have hfault : headerFault s.cur s.nch (Instr.calcCoef ch f res).header = none := headerFault_none (fun h => nomatch h) (.inl hcur) hch
  have hrule : commandRule (.calcCoef ch f res) s = .done (s.writeCoef ch (coefFn s.cfg.expForm f res)) := by
    have hdom : calcDomain f res = true := by rw [calcDomain, hf0, hf1, hres]; rfl
    rw [commandRule, calcRule, if_pos hdom]
  rw [exec_eq_issue, State.issue_done hfault hrule] at h
  exact (Host.Outcome.next.inj h).symm

theorem State.writeCoef_coef (s : State) {ch : BitVec 8} (c : Coefs) (h : ch.toNat < s.nch) :
    ((s.writeCoef ch c).kernel ch).coef = (s.freshCoefs c).1 := by
  have hch : ch.toNat < (s.freshCoefs c).2.nch := by rw [State.freshCoefs_draws]; exact h
  rw [State.writeCoef_eq, State.validateCoef, State.setNcoef_kernel, State.kernel_setKernel_same _ _ _ (by simpa using hch),
    State.writeCoefRegs_eq, State.kernel_setKernel_same _ _ _ hch]

theorem State.writeCoef_draws (s : State) (ch : BitVec 8) (c : Coefs) : (s.writeCoef ch c).draws = (s.freshCoefs c).2.draws := by
  simp [State.writeCoef_eq]

theorem State.sampleIn_writes (s : State) {ch : BitVec 8} (a : Nat) (h : ch.toNat < s.nch) :
    let x := (s.memRead a).2.fresh64 (to64 (s.memRead a).1)
    let o := x.2.fresh32 (round32 (recurrence (s.kernel ch) x.1))
    let y := o.2.fresh64 (to64 o.1)
    let t := (s.sampleIn ch a).2
    (s.sampleIn ch a).1 = o.1 ∧ (t.kernel ch).x1 = x.1 ∧ (t.kernel ch).y1 = y.1 ∧ t.draws = y.2.draws := by
  intro x o y t
  have hnch : ch.toNat < y.2.nch := by
    simpa only [y, o, x, State.fresh64_state, State.fresh32_state, State.memRead_state, State.setDraws_nch] using h
  have ht : s.sampleIn ch a = (o.1, y.2.setKernel ch
      { s.kernel ch with x2 := (s.kernel ch).x1, x1 := x.1, y2 := (s.kernel ch).y1, y1 := y.1 }) := rfl
  simp only [t, ht, State.kernel_setKernel_same _ _ _ hnch, State.setKernel_draws, and_self]

theorem writeMagnitude_some {c : Coefs} {rate freq m : Word} (h : magnitude c (to64 freq) (to64 rate) = some m) (dst : Nat) (s : State) :
    writeMagnitude c rate freq dst s = .done ((s.fresh32 m).2.memWrite dst (s.fresh32 m).1) := by
  simp only [writeMagnitude, h]

/-- Settles O36: each write goes through `fresh64` or `fresh32`, whose draws count on from one value to the next. -/
theorem writtenNaNsAreQuiet : Obligations.WrittenNaNsAreQuiet := by
  refine ⟨fun s v h => ⟨s.fresh64_isNaN h, ?_⟩, State.fresh64_value, fun s w h => ⟨s.fresh32_isNaN h, ?_⟩, State.fresh32_value,
    fun s c k r => s.freshCoefs_get c, State.freshCoefs_draws, fun s t ch f res h hc => ?_, fun s ch a h => s.sampleIn_writes a h,
    fun s c rate freq m dst h => writeMagnitude_some h dst s, fun _ => exists_quietNaN64, fun _ => exists_quietNaN32⟩
  · rw [s.fresh64_isNaN h]
    exact isQuietNaN64_quietNaN64 _
  · rw [s.fresh32_isNaN h]
    exact isQuietNaN32_quietNaN32 _
  · rw [exec_calcCoef_computes h hc, State.complete_kernel, State.complete_draws]
    exact ⟨State.writeCoef_coef s _ hc.2.1, State.writeCoef_draws s ch _⟩

/-! ## The transcendental parameters (R11) -/

theorem isNaN64_asNaN64 (v : Dword) : isNaN64 (asNaN64 v) = true := by
  have hq : isQuietNaN64 (asNaN64 v) = true := by
    rw [isQuietNaN64_iff, asNaN64, BitVec.extractLsb'_or]
    exact BitVec.or_allOnes
  exact (Bool.and_eq_true _ _ ▸ hq).1

theorem isNaN64_of_isFinite64 {x : Dword} (h : isFinite64 x = true) : isNaN64 x = false := by
  unfold isFinite64 at h
  unfold isNaN64
  cases hv : val64 x <;> simp [hv] at h ⊢

/-- What `SIN64` and `COS64` are: `z` at +0.0, and elsewhere the free function `raw` kept to P2 and P3. -/
def keptInUnit (z : Dword) (raw : Dword → Dword) (x : Dword) : Dword :=
  if x = 0 then z
  else if isNaN64 x then asNaN64 (raw x)
  else if isFinite64 x && !inUnit (raw x) then 0
  else raw x

theorem sin64_eq_keptInUnit (x : Dword) : sin64 x = keptInUnit 0 Config.sinRaw x := rfl
theorem cos64_eq_keptInUnit (x : Dword) : cos64 x = keptInUnit one Config.cosRaw x := rfl

theorem isNaN64_keptInUnit (z : Dword) (raw : Dword → Dword) {x : Dword} (h : isNaN64 x = true) :
    isNaN64 (keptInUnit z raw x) = true := by
  have h0 : x ≠ 0 := by rintro rfl; exact absurd h (by decide)
  rw [keptInUnit, if_neg h0, if_pos h]
  exact isNaN64_asNaN64 _

theorem inUnit_keptInUnit {z : Dword} (hz : inUnit z = true) (raw : Dword → Dword) {x : Dword} (h : isFinite64 x = true) :
    inUnit (keptInUnit z raw x) = true := by
  rw [keptInUnit, isNaN64_of_isFinite64 h, h]
  split_ifs with h0 hn hraw
  · exact hz
  · contradiction
  · decide +kernel
  · simpa using hraw

theorem isNaN64_pow10 {x : Dword} (h : isNaN64 x = true) : isNaN64 (pow10 x) = true := by
  rw [pow10, if_neg (by rw [(compare_nan (.inl h)).2.1]; decide), if_pos h]
  exact isNaN64_asNaN64 _

theorem nonNegative_pow10 {x : Dword} (h : isFinite64 x = true) : nonNegative (pow10 x) = true := by
  rw [pow10, isNaN64_of_isFinite64 h, h]
  split_ifs with h0 hn hraw
  · decide
  · contradiction
  · decide
  · simpa using hraw

/-- Settles O37: in each branch of the three functions the result is a constant, a pattern made a NaN, or one checked. -/
theorem transcendentalProperties : Obligations.TranscendentalProperties := by
  refine ⟨rfl, rfl, by decide, by decide, fun x h => ⟨?_, ?_, isNaN64_pow10 h⟩, fun x h => ?_⟩
  · exact isNaN64_keptInUnit 0 Config.sinRaw h
  · exact isNaN64_keptInUnit one Config.cosRaw h
  have hsin := inUnit_keptInUnit (z := 0) (by decide +kernel) Config.sinRaw h
  have hcos := inUnit_keptInUnit (z := one) (by decide +kernel) Config.cosRaw h
  have hpow := nonNegative_pow10 h
  rw [← sin64_eq_keptInUnit, inUnit, Bool.and_eq_true] at hsin
  rw [← cos64_eq_keptInUnit, inUnit, Bool.and_eq_true] at hcos
  rw [nonNegative, Bool.and_eq_true, Bool.not_eq_true', Bool.not_eq_true', BitVec.msb_eq_getLsbD_last] at hpow
  exact ⟨hsin.1, hsin.2, hcos.1, hcos.2, hpow.2, hpow.1⟩

end Sys2Proof.Machine
end

section
/-! PROOFS. What every move keeps of a channel, and everything a move of a port can do (R33, R35–R37, R79–R81). -/

namespace Sys2Proof.Machine

/-! ## What every move keeps of a channel -/

/-- What every move but power-on reset keeps of a channel: the sentinel until the coefficients are valid (R37), images of binary32 values in the
filter state (R36), and valid coefficients (R35). -/
structure Kernel.Kept (k k' : Kernel) : Prop where
  cache : k.cacheOk = true → k'.cacheOk = true
  images : k.imagesOk → k'.imagesOk
  valid : k.valid = true → k'.valid = true

theorem Kernel.Kept.refl (k : Kernel) : k.Kept k := ⟨id, id, id⟩

theorem Kernel.Kept.trans {k l m : Kernel} (h : k.Kept l) (g : l.Kept m) : k.Kept m :=
  ⟨g.cache ∘ h.cache, g.images ∘ h.images, g.valid ∘ h.valid⟩

/-- Every channel of `s` is kept in `t`. -/
structure State.ChannelsKept (s t : State) : Prop where
  nch : t.nch = s.nch
  kept : ∀ (n : Nat) (k' : Kernel), t.kernels[n]? = some k' → ∃ k, s.kernels[n]? = some k ∧ k.Kept k'

theorem State.ChannelsKept.of_eq {s t : State} (h : t.kernels = s.kernels) : s.ChannelsKept t :=
  ⟨congrArg List.length h, fun _ k' hk => ⟨k', h ▸ hk, .refl k'⟩⟩

theorem State.ChannelsKept.trans {s t u : State} (h : s.ChannelsKept t) (g : t.ChannelsKept u) : s.ChannelsKept u where
  nch := g.nch.trans h.nch
  kept n k' hk := by
    obtain ⟨l, hl, hlk⟩ := g.kept n k' hk
    obtain ⟨k, hk, hkl⟩ := h.kept n l hl
    exact ⟨k, hk, hkl.trans hlk⟩

/-- What holds of every channel of `s`, and passes from a channel to the one kept of it, holds of every channel of `t`. -/
theorem State.ChannelsKept.forall_mem {s t : State} {P : Kernel → Prop} (h : s.ChannelsKept t) (hP : ∀ k k', Kernel.Kept k k' → P k → P k')
    (hs : ∀ k ∈ s.kernels, P k) : ∀ k ∈ t.kernels, P k := by
  intro k' hk'
  obtain ⟨n, hn⟩ := List.mem_iff_getElem?.1 hk'
  obtain ⟨k, hk, hkk'⟩ := h.kept n k' hn
  exact hP k k' hkk' (hs k (List.mem_of_getElem? hk))

theorem State.kernel_of_getElem? {s : State} {ch : BitVec 8} {k : Kernel} (h : s.kernels[ch.toNat]? = some k) : s.kernel ch = k := by
  rw [State.kernel, h, Option.getD_some]

theorem State.getElem?_kernels {s : State} {ch : BitVec 8} (h : ch.toNat < s.nch) : s.kernels[ch.toNat]? = some (s.kernel ch) := by
  have hk : s.kernels[ch.toNat]? = some _ := List.getElem?_eq_getElem h
  rw [hk, State.kernel_of_getElem? hk]

/-- Only a channel that exists has valid coefficients. -/
theorem State.lt_nch_of_valid {s : State} {ch : BitVec 8} (h : (s.kernel ch).valid = true) : ch.toNat < s.nch := by
  by_contra hn
  rw [State.kernel, List.getElem?_eq_none (not_lt.1 hn)] at h
  exact absurd h (by decide)

theorem State.ChannelsKept.valid {s t : State} (h : s.ChannelsKept t) {ch : BitVec 8} (hv : (s.kernel ch).valid = true) :
    (t.kernel ch).valid = true := by
  have hlt := State.lt_nch_of_valid hv
  obtain ⟨k, hk, hkept⟩ := h.kept _ _ (State.getElem?_kernels (s := t) (h.nch ▸ hlt))
  rw [State.getElem?_kernels hlt] at hk
  exact hkept.valid (Option.some.inj hk ▸ hv)

/-- What a command in progress relies on of its channel is kept with the channels. -/
theorem State.ChannelsKept.channelOk {s t : State} (h : s.ChannelsKept t) {j : Job} (hj : j.channelOk s) : j.channelOk t := by
  cases j with
  | coefWrite ch todo next => exact lt_of_lt_of_eq hj h.nch.symm
  | evalValid | curveValid | rdWrite => trivial
  | sampleIn | sampleOut | curveIn | curveRate | magRead | rdRead => exact h.valid hj

theorem State.forall_kernel {s : State} {P : Kernel → Prop} {ch : BitVec 8} (h : ∀ k ∈ s.kernels, P k) (hch : ch.toNat < s.nch) :
    P (s.kernel ch) := h _ (List.mem_of_getElem? (State.getElem?_kernels hch))

/-- Writing a kernel register set keeps the channels when it keeps the one written. -/
theorem State.ChannelsKept.setKernel {s : State} {ch : BitVec 8} {k' : Kernel} (h : ch.toNat < s.nch → (s.kernel ch).Kept k') :
    s.ChannelsKept (s.setKernel ch k') where
  nch := s.setKernel_nch ch k'
  kept n l hl := by
    simp only [State.setKernel, State.setKernels_kernels, List.getElem?_set] at hl
    split_ifs at hl with hn hlt
    · obtain rfl := Option.some.inj hl
      exact ⟨_, hn ▸ State.getElem?_kernels hlt, h hlt⟩
    · exact ⟨l, hl, .refl l⟩

theorem Kernel.kept_coef (k : Kernel) (c : Coefs) : k.Kept { k with coef := c } := ⟨id, id, id⟩

theorem Kernel.kept_valid (k : Kernel) : k.Kept { k with valid := true } := ⟨fun _ => rfl, id, fun _ => rfl⟩

theorem Kernel.kept_cache {k : Kernel} (h : k.valid = true) (f res : Dword) : k.Kept { k with lastF := f, lastR := res } :=
  ⟨fun _ => by rw [Kernel.cacheOk, h, Bool.true_or], id, id⟩

theorem isImage32_to64 (w : Word) : isImage32 (to64 w) := .inr ⟨w, rfl⟩

theorem isImage32_zero : isImage32 0 := .inr ⟨0, by decide⟩

theorem Kernel.kept_cleared (k : Kernel) : k.Kept k.cleared where
  cache _ := by simp [Kernel.cacheOk, Kernel.cleared]
  images _ := ⟨isImage32_zero, isImage32_zero, isImage32_zero, isImage32_zero⟩
  valid := id

/-- The filter state shifted by one sample (R155). -/
def Kernel.shifted (k : Kernel) (x y : Dword) : Kernel := { k with x2 := k.x1, x1 := x, y2 := k.y1, y1 := y }

theorem Kernel.kept_shifted (k : Kernel) {x y : Dword} (hx : isImage32 x) (hy : isImage32 y) : k.Kept (k.shifted x y) :=
  ⟨id, fun ⟨h1, _, h3, _⟩ => ⟨hx, h1, hy, h3⟩, id⟩

/-- An image of a binary32 value is written as one, or as a NaN (R9). -/
theorem State.isImage32_fresh64 (s : State) (w : Word) : isImage32 (s.fresh64 (to64 w)).1 := by
  cases h : isNaN64 (to64 w)
  · rw [s.fresh64_value _ h]
    exact isImage32_to64 w
  · rw [s.fresh64_isNaN h]
    exact .inl (Bool.and_eq_true_iff.1 (isQuietNaN64_quietNaN64 _)).1

/-- The read half of a sample shifts images into the filter state of its channel, and nothing else but the count of draws changes (R155). -/
theorem State.sampleIn_shifts (s : State) (ch : BitVec 8) (a : Nat) :
    ∃ n x y, isImage32 x ∧ isImage32 y ∧ (s.sampleIn ch a).2 = (s.setDraws n).setKernel ch ((s.kernel ch).shifted x y) := by
  simp only [State.sampleIn, State.memRead_state, State.fresh64_state, State.fresh32_state, State.setDraws_setDraws]
  exact ⟨_, _, _, State.isImage32_fresh64 _ _, State.isImage32_fresh64 _ _, rfl⟩

theorem State.ChannelsKept.sampleIn (s : State) (ch : BitVec 8) (a : Nat) : s.ChannelsKept (s.sampleIn ch a).2 := by
  obtain ⟨n, x, y, hx, hy, h⟩ := s.sampleIn_shifts ch a
  rw [h]
  exact .trans (t := s.setDraws n) (.of_eq rfl) (.setKernel fun _ => Kernel.kept_shifted (s.kernel ch) hx hy)

theorem State.ChannelsKept.samples (n : Nat) (ch : BitVec 8) (src dst : Nat) (s : State) :
    s.ChannelsKept (State.samples ch src dst n s) := by
  induction n generalizing src dst s with
  | zero => exact .of_eq rfl
  | succ n ih =>
    have hsample : s.ChannelsKept (s.sample ch src dst) := .trans (.sampleIn s ch src) (.of_eq rfl)
    exact hsample.trans (ih (src + 1) (dst + 1) (s.sample ch src dst))

theorem State.ChannelsKept.writeCoefReg (s : State) (ch : BitVec 8) (r : CoefReg) (v : Dword) :
    s.ChannelsKept (s.writeCoefReg ch r v) := .setKernel fun _ => Kernel.kept_coef _ _

theorem State.ChannelsKept.validateCoef (s : State) (ch : BitVec 8) : s.ChannelsKept (s.validateCoef ch) :=
  .trans (.setKernel fun _ => Kernel.kept_valid _) (.of_eq rfl)

theorem State.validateCoef_valid {s : State} {ch : BitVec 8} (h : ch.toNat < s.nch) : ((s.validateCoef ch).kernel ch).valid = true := by
  rw [State.validateCoef, State.setNcoef_kernel, State.kernel_setKernel_same _ _ _ h]

/-- The sixth step of a coefficient write and the cache after it (R131, R154). -/
theorem State.ChannelsKept.validateCoef_writeCache (s : State) (ch : BitVec 8) (f res : Dword) :
    s.ChannelsKept ((s.validateCoef ch).writeCache ch f res) :=
  .trans (.validateCoef s ch) (.setKernel fun h => Kernel.kept_cache (State.validateCoef_valid (by simpa using h)) f res)

theorem State.ChannelsKept.freshCoefs_writeCoefRegs (s : State) (ch : BitVec 8) (c : Coefs) :
    s.ChannelsKept ((s.freshCoefs c).2.writeCoefRegs ch (s.freshCoefs c).1) := by
  obtain ⟨n, hn⟩ := s.freshCoefs_state c
  rw [State.writeCoefRegs_eq, hn]
  exact .trans (t := s.setDraws n) (.of_eq rfl) (.setKernel fun _ => Kernel.kept_coef (s.kernel ch) _)

theorem State.ChannelsKept.writeCoef (s : State) (ch : BitVec 8) (c : Coefs) : s.ChannelsKept (s.writeCoef ch c) :=
  .trans (.freshCoefs_writeCoefRegs s ch c) (.validateCoef _ ch)

theorem State.ChannelsKept.recompute (s : State) (ch : BitVec 8) (f res : Dword) : s.ChannelsKept (s.recompute ch f res) := by
  unfold State.recompute
  split_ifs
  · exact .trans (.freshCoefs_writeCoefRegs s ch _) (.validateCoef_writeCache _ ch f res)
  · exact .of_eq rfl

end Sys2Proof.Machine
end

section
/-! PROOFS. The frequency that the preamble computes is never the sentinel of the cache (R37, R152, R154). -/

namespace Sys2Proof.Machine

/-! ## Values with the sign bit clear -/

/-- The sign of an exact value; that of a NaN is of no use. -/
def FloatVal.negative : FloatVal → Bool
  | .nan => false
  | .inf s => s
  | .fin s _ _ => s

theorem scaled_true_nonpos (m : Nat) (e lo : Int) : scaled true m e lo ≤ 0 :=
  Int.neg_nonpos_of_nonneg (by positivity)

theorem scaled_false_nonneg (m : Nat) (e lo : Int) : 0 ≤ scaled false m e lo :=
  Int.mul_nonneg (by positivity) (by positivity)

theorem scaled_false_pos {m : Nat} (hm : m ≠ 0) (e lo : Int) : 0 < scaled false m e lo :=
  Int.mul_pos (by omega) (by positivity)

/-- A negative value lies below every positive number. -/
theorem FloatVal.lt_of_negative {u : FloatVal} (hu : u.negative = true) {n : Nat} (hn : n ≠ 0) (f : Int) : u.lt (.fin false n f) = true := by
  match u, hu with
  | .inf true, _ => rfl
  | .fin true m e, _ => exact decide_eq_true ((scaled_true_nonpos m e _).trans_lt (scaled_false_pos hn f _))

/-- Zero lies below no negative value. -/
theorem FloatVal.zero_lt_negative {u : FloatVal} (hu : u.negative = true) (e : Int) : (FloatVal.fin false 0 e).lt u = false := by
  match u, hu with
  | .inf true, _ => rfl
  | .fin true n f, _ =>
    exact decide_eq_false (not_lt.2 ((scaled_true_nonpos n f _).trans (scaled_false_nonneg 0 e _)))

/-- A value whose sign bit is clear equals no negative number. -/
theorem FloatVal.eq_fin_true {u : FloatVal} (hu : u.negative = false) {n : Nat} (hn : n ≠ 0) (f : Int) : u.eq (.fin true n f) = false := by
  match u, hu with
  | .nan, _ => rfl
  | .inf false, _ => rfl
  | .fin false m e, _ =>
    have hlt : scaled true n f (minExp e f) < scaled false m e (minExp e f) :=
      (Int.neg_neg_of_pos (scaled_false_pos hn f _)).trans_le (scaled_false_nonneg m e _)
    exact decide_eq_false hlt.ne'

theorem FloatVal.mul_negative {u v : FloatVal} (hu : u.negative = false) (hv : v.negative = false) : (u.mul v).negative = false := by
  match u, v, hu, hv with
  | .nan, _, _, _ => rfl
  | u, .nan, _, _ => rw [FloatVal.mul_nan]; rfl
  | .inf false, .inf false, _, _ => rfl
  | .inf false, .fin false n f, _, _ => cases n <;> rfl
  | .fin false m e, .inf false, _, _ => cases m <;> rfl
  | .fin false m e, .fin false n f, _, _ => rfl

theorem FloatVal.div_negative {u v : FloatVal} (hu : u.negative = false) (hv : v.negative = false) : (u.div v).negative = false := by
  match u, v, hu, hv with
  | .nan, _, _, _ => rfl
  | u, .nan, _, _ => rw [FloatVal.div_nan]; rfl
  | .inf false, .inf false, _, _ => rfl
  | .inf false, .fin false n f, _, _ => rfl
  | .fin false m e, .inf false, _, _ => rfl
  | .fin false m e, .fin false n f, _, _ => cases n <;> cases m <;> rfl

theorem FloatFmt.negative_unpack {F : FloatFmt} {b : Nat} (hb : b < F.signBit) : (F.unpack b).negative = false := by
  have hneg : F.negative b = false := by rw [FloatFmt.negative, Nat.div_eq_of_lt hb]; rfl
  rcases pattern_cases F b with h | h | h
  · obtain ⟨m, e, hu, -⟩ := FloatFmt.unpack_fin h
    rw [hu]; exact hneg
  · rw [FloatFmt.unpack_inf h]; exact hneg
  · rw [FloatFmt.unpack_nan h]; rfl

theorem FloatFmt.pack_fin_false_lt {F : FloatFmt} (hF : F.Proper) (m : Nat) (e : Int) : F.pack (.fin false m e) < F.signBit :=
  ((F.standsFor_self m).isNearest_roundMag hF e).le_inf.trans_lt F.infBits_lt_signBit

/-- Rounding keeps a clear sign bit. -/
theorem negative_val64_pack64 {v : FloatVal} (hv : v.negative = false) : (val64 (pack64 v)).negative = false := by
  refine FloatFmt.negative_unpack ?_
  rw [pack64_toNat]
  match v, hv with
  | .nan, _ => norm_num [FloatFmt.pack, FloatFmt.nanBits, FloatFmt.infBits, FloatFmt.signBit, binary64]
  | .inf false, _ => exact binary64.infBits_lt_signBit
  | .fin false m e, _ => exact FloatFmt.pack_fin_false_lt binary64_proper m e

/-! ## The preamble (R152, R153) -/

/-- What the preamble answers on the parameters it accepts (R152). -/
theorem preamble_of_accepted {p : Params} (h : parametersAccepted p) :
    preamble p = .ok (normalizedFreq (clampCut (to64 p.cut)) (to64 p.rate), clampRes (to64 p.res)) := by
  obtain ⟨hcut, hres, hrate, hncut, hnres, hfin, hpos⟩ := h
  simp only [preamble, hcut, hres, hrate, hncut, hnres, hfin, hpos]
  rfl

/-- The preamble answers only where it accepts the parameters, and its errors have a code (R152, R153). -/
theorem preamble_cases (p : Params) : parametersAccepted p ∨ preamble p = .error .uninitParam ∨ preamble p = .error .domain := by
  unfold preamble parametersAccepted
  by_cases hv : (!p.cutValid || !p.resValid || !p.rateValid) = true
  · exact .inr (.inl (if_pos hv))
  by_cases hd : (isNaN64 (to64 p.cut) || isNaN64 (to64 p.res) || !isFinite64 (to64 p.rate) || !lt64 0 (to64 p.rate)) = true
  · exact .inr (.inr ((if_neg hv).trans (if_pos hd)))
  · left
    simpa [and_assoc] using And.intro hv hd

theorem accepted_of_preamble {p : Params} {f res : Dword} (h : preamble p = .ok (f, res)) : parametersAccepted p := by
  rcases preamble_cases p with ha | he | he
  · exact ha
  · rw [he] at h; cases h
  · rw [he] at h; cases h

theorem preamble_error {p : Params} {c : ErrCode} (h : preamble p = .error c) : c ≠ .none := by
  rcases preamble_cases p with ha | he | he
  · rw [preamble_of_accepted ha] at h; cases h
  · rw [he] at h; cases h; decide
  · rw [he] at h; cases h; decide

/-- The clamped cutoff has a clear sign bit: it is 12 Hz or not below it. -/
theorem clampCut_negative (cut : Dword) : (val64 (clampCut cut)).negative = false := by
  unfold clampCut
  split_ifs with hlt
  · decide
  · rw [← Bool.not_eq_true]
    exact fun hneg => hlt (FloatVal.lt_of_negative hneg (by decide) _)

/-- A normalized frequency has a clear sign bit (R152). -/
theorem normalizedFreq_negative {cut sr : Dword} (hcut : (val64 cut).negative = false) (hsr : (val64 sr).negative = false) :
    (val64 (normalizedFreq cut sr)).negative = false := by
  simp only [normalizedFreq]
  split_ifs
  · decide
  · exact negative_val64_pack64 (FloatVal.div_negative (negative_val64_pack64 (FloatVal.mul_negative (by decide) hcut)) hsr)

/-- The frequency of the preamble is never the sentinel (R37, R152). -/
theorem eq64_sentinel_of_preamble {p : Params} {f res : Dword} (h : preamble p = .ok (f, res)) : eq64 f sentinel = false := by
  have ha := accepted_of_preamble h
  rw [preamble_of_accepted ha] at h
  obtain ⟨-, -, -, -, -, -, hpos⟩ := ha
  obtain ⟨rfl, -⟩ := Prod.mk.inj (Except.ok.inj h)
  have hrate : (val64 (to64 p.rate)).negative = false := by
    rw [← Bool.not_eq_true]
    intro hneg
    exact absurd (hpos.symm.trans (FloatVal.zero_lt_negative hneg _)) (by decide)
  exact FloatVal.eq_fin_true (normalizedFreq_negative (clampCut_negative _) hrate) (by decide) _

/-- Where the cache of a channel agrees with the preamble, its coefficients are valid (R35, R37, R154). -/
theorem valid_of_cacheDiffers {k : Kernel} (hk : k.cacheOk = true) {p : Params} {f res : Dword} (h : preamble p = .ok (f, res))
    (hc : cacheDiffers k f res = false) : k.valid = true := by
  simp only [Kernel.cacheOk, Bool.or_eq_true, Bool.and_eq_true, decide_eq_true_eq] at hk
  rcases hk with hv | ⟨hf, -⟩
  · exact hv
  · rw [cacheDiffers, hf, eq64_sentinel_of_preamble h] at hc
    cases hc

end Sys2Proof.Machine
end

section
/-! PROOFS. Everything a port's move can do, said once for whole commands, first steps and later steps (R79–R82, R102, R112, R212). -/

namespace Sys2Proof.Machine

/-! ## What is known of a port's move -/

/-- What is known of a port's move before it is made. -/
structure MoveTerms where
  /-- A ground on which the move writes no kernel register, and the port goes on with a command that only reads (R38, R102). -/
  reads : Prop
  /-- A ground on which what the port goes on with finds valid coefficients (R35). -/
  relies : Prop
  /-- When the move ends a coefficient computation (R46, R131). -/
  counts : Prop

/-- The terms of a whole command (R38, R102). -/
def commandTerms (i : Instr) (s : State) : MoveTerms := ⟨s.cur = .D, ∀ k ∈ s.kernels, k.cacheOk = true, computesCoefficients i s⟩

/-- The terms of a command's first atomic step: no coefficient write ends in it (R131). -/
def State.firstTerms (s : State) : MoveTerms := ⟨s.cur = .D, ∀ k ∈ s.kernels, k.cacheOk = true, False⟩

/-- The terms of a later atomic step: the sixth of a coefficient write ends it (R131). -/
def Job.terms (j : Job) (s : State) : MoveTerms := ⟨j.readsOnly = true, j.channelOk s, ∃ ch next, j = .coefWrite ch [] next⟩

/-- The work of a port's move, before it is recorded on the port: it keeps the channels and leaves the ports and the configuration. -/
structure State.Worked (s : State) (m : MoveTerms) (u : State) : Prop where
  portR : u.portR = s.portR
  portD : u.portD = s.portD
  cfg : u.cfg = s.cfg
  cur : u.cur = s.cur
  channels : s.ChannelsKept u
  kernels : m.reads → u.kernels = s.kernels
  ncoef : m.counts ∧ u.ncoef = s.ncoef + 1 ∨ ¬m.counts ∧ u.ncoef = s.ncoef

/-- What a port goes on with after a move. -/
structure Job.Follows (m : MoveTerms) (u : State) (j : Job) : Prop where
  readsOnly : m.reads → j.readsOnly = true
  channelOk : m.relies → j.channelOk u

/-- Everything a move of the running port can do: complete its command, raise an error, or go on with it. -/
inductive State.PortMove (s : State) (m : MoveTerms) : State → Prop
  | complete {u : State} (len : Nat) (h : s.Worked m u) : PortMove s m (u.complete len)
  | raise {u : State} {c : ErrCode} (hc : c ≠ .none) (h : s.Worked m u) : PortMove s m (u.raise c)
  | goOn {u : State} {j : Job} (hj : j.Follows m u) (h : s.Worked m u) : PortMove s m (u.setJob j)

/-- Work that writes no kernel register and ends no coefficient computation. -/
theorem State.Worked.quiet {s u : State} {m : MoveTerms} (hc : ¬m.counts) (hR : u.portR = s.portR := by rfl)
    (hD : u.portD = s.portD := by rfl) (hcfg : u.cfg = s.cfg := by rfl) (hcur : u.cur = s.cur := by rfl)
    (hk : u.kernels = s.kernels := by rfl) (hn : u.ncoef = s.ncoef := by rfl) : s.Worked m u :=
  ⟨hR, hD, hcfg, hcur, .of_eq hk, fun _ => hk, .inr ⟨hc, hn⟩⟩

theorem State.Worked.portState {s u : State} {m : MoveTerms} (h : s.Worked m u) (p : Port) : u.portState p = s.portState p := by
  cases p
  · exact h.portR
  · exact h.portD

/-! ## Rules that only read -/

/-- However a rule ends, its state has `P`, and an error has a code (R211). -/
def Ended.Leaves (P : State → Prop) : Ended → Prop
  | .done u => P u
  | .failed c u => c ≠ .none ∧ P u

theorem Ended.Leaves.imp {P Q : State → Prop} {e : Ended} (h : e.Leaves P) (hPQ : ∀ u, P u → Q u) : e.Leaves Q := by
  cases e with
  | done u => exact hPQ u h
  | failed c u => exact ⟨h.1, hPQ u h.2⟩

/-- What the commands that only read leave besides: the kernels and `NCOEF`. -/
def State.readsTo (s u : State) : Prop := s.sameOutside u ∧ u.kernels = s.kernels ∧ u.ncoef = s.ncoef

theorem State.readsTo.refl (s : State) : s.readsTo s := ⟨.refl s, rfl, rfl⟩

theorem State.readsTo.memory (s : State) (n : Nat) (m : List Host.Cell) : s.readsTo ((s.setDraws n).setMem m) :=
  ⟨⟨rfl, rfl, rfl, rfl, rfl, rfl, rfl, rfl, rfl, rfl, rfl⟩, rfl, rfl⟩

theorem State.readsTo.trans {s t u : State} (h : s.readsTo t) (g : t.readsTo u) : s.readsTo u :=
  ⟨h.1.trans g.1, g.2.1.trans h.2.1, g.2.2.trans h.2.2⟩

theorem writeMagnitude_leaves (c : Coefs) (rate freq : Word) (dst : Nat) (s : State) : (writeMagnitude c rate freq dst s).Leaves s.readsTo := by
  rcases writeMagnitude_cases c rate freq dst s with ⟨-, h⟩ | ⟨g, -, h⟩ <;> rw [h]
  · exact ⟨by decide, .refl s⟩
  · rw [State.fresh32_state]
    exact .memory s _ _

theorem State.Worked.of_readsTo {s u : State} {m : MoveTerms} (hc : ¬m.counts) (h : s.readsTo u) : s.Worked m u :=
  .quiet hc h.1.portR h.1.portD h.1.cfg h.1.cur h.2.1 h.2.2

/-! ## The header checks (R112) -/

theorem headerFault_code {p : Port} {n : Nat} {hd : Header} {c : ErrCode} (h : headerFault p n hd = some c) : c ≠ .none := by
  unfold headerFault at h
  split_ifs at h <;> cases h <;> decide

/-- Port D passes no header of a command that only port R may run (R102). -/
theorem renderOnly_of_headerFault {n : Nat} {hd : Header} (h : headerFault .D n hd = none) : hd.op.renderOnly = false := by
  cases ho : hd.op.renderOnly
  · rfl
  · rw [headerFault, if_pos ⟨rfl, ho⟩] at h
    cases h

/-- A header that passes names a channel that exists (R106). -/
theorem lt_nch_of_headerFault {p : Port} {n : Nat} {hd : Header} (h : headerFault p n hd = none) (ho : hd.op ≠ .wrp) : hd.ch.toNat < n := by
  by_contra hn
  unfold headerFault at h
  split_ifs at h with h1 h2
  all_goals exact h2 ⟨ho, not_lt.1 hn⟩

/-! ## A later atomic step of a command (R81) -/

/-- A step of a coefficient write writes one of the registers left, freely chosen (R82). -/
theorem stepCoefWrite_eq (ch : BitVec 8) (p : CoefReg × Dword) (todo : List (CoefReg × Dword)) (next : AfterCoef) (s : State) :
    ∃ j r v, (p :: todo)[j]? = some (r, v) ∧
      stepCoefWrite ch (p :: todo) next s =
        ((s.setTicks (s.ticks + 1)).writeCoefReg ch r v).setJob (.coefWrite ch ((p :: todo).eraseIdx j) next) := by
  have hl : Config.pick s.ticks % (p :: todo).length < (p :: todo).length := Nat.mod_lt _ (by simp)
  refine ⟨_, _, _, List.getElem?_eq_getElem hl, ?_⟩
  simp only [stepCoefWrite, State.choose, List.getElem?_eq_getElem hl]
  rfl

theorem Job.not_counts_of_readsOnly {j : Job} (h : j.readsOnly = true) {s : State} : ¬(j.terms s).counts := by
  rintro ⟨ch, next, rfl⟩
  cases h

/-- A read of a coefficient register touches nothing but the count of free choices (R184). -/
theorem stepCoefRead_worked {j : Job} (hj : j.readsOnly = true) (ch : BitVec 8) (r₀ : CoefReg) (todo : List CoefReg) (got : Coefs) (s : State) :
    s.Worked (j.terms s) (stepCoefRead ch (r₀ :: todo) got s).2.2 := by
  obtain ⟨k, r, -, h⟩ := stepCoefRead_eq ch r₀ todo got s
  rw [h]
  exact .quiet (Job.not_counts_of_readsOnly hj)

theorem stepMagnitude_portMove (ch : BitVec 8) (got : Coefs) (rate freq : Word) (next : AfterMag) (s : State) :
    s.PortMove (Job.terms (.magRead ch [] got rate freq next) s) (stepMagnitude ch got rate freq next s) := by
  have hm : ¬(Job.terms (.magRead ch [] got rate freq next) s).counts := Job.not_counts_of_readsOnly rfl
  cases next with
  | finish dst =>
    have hw := writeMagnitude_leaves got rate freq dst s
    cases h : writeMagnitude got rate freq dst s <;> rw [h] at hw <;> simp only [stepMagnitude, h]
    case failed c u => exact .raise hw.1 (.of_readsTo hm hw.2)
    case done u => exact .complete 3 (.of_readsTo hm hw)
  | entry a left =>
    have hw := writeMagnitude_leaves got rate freq (a + 1) s
    cases h : writeMagnitude got rate freq (a + 1) s <;> rw [h] at hw <;> simp only [stepMagnitude, h]
    case failed c u => exact .raise hw.1 (.of_readsTo hm hw.2)
    case done u =>
      have hu : s.Worked _ u := .of_readsTo hm hw
      split_ifs
      · exact .complete 3 hu
      · exact .goOn ⟨fun _ => rfl, fun hv => hu.channels.valid hv⟩ hu

/-- Everything a later atomic step of a command can do (R81). -/
theorem stepJob_portMove (j : Job) (s : State) : s.PortMove (j.terms s) (stepJob j s) := by
  cases j with
  | coefWrite ch todo next =>
    cases todo with
    | nil =>
      have hcounts : (Job.terms (.coefWrite ch [] next) s).counts := ⟨ch, next, rfl⟩
      cases next with
      | finish =>
        exact .complete 5 ⟨rfl, rfl, rfl, rfl, .validateCoef s ch, nofun, .inl ⟨hcounts, rfl⟩⟩
      | filter f res src dst n =>
        have hkept := State.ChannelsKept.validateCoef_writeCache s ch f res
        refine .goOn ⟨nofun, fun (hch : ch.toNat < s.nch) => ?_⟩ ⟨rfl, rfl, rfl, rfl, hkept, nofun, .inl ⟨hcounts, rfl⟩⟩
        have hch' : ch.toNat < (s.validateCoef ch).nch := by simpa using hch
        show Kernel.valid (State.kernel _ ch) = true
        rw [State.writeCache, State.kernel_setKernel_same _ _ _ hch']
        exact State.validateCoef_valid hch
    | cons p todo =>
      obtain ⟨k, r, v, -, h⟩ := stepCoefWrite_eq ch p todo next s
      have hkept : s.ChannelsKept ((s.setTicks (s.ticks + 1)).writeCoefReg ch r v) :=
        .trans (t := s.setTicks (s.ticks + 1)) (.of_eq rfl) (.writeCoefReg _ ch r v)
      simp only [stepJob, h]
      exact .goOn ⟨nofun, fun hch => lt_of_lt_of_eq hch hkept.nch.symm⟩
        ⟨rfl, rfl, rfl, rfl, hkept, nofun, .inr ⟨by rintro ⟨_, _, ⟨⟩⟩, rfl⟩⟩
  | sampleIn ch src dst left =>
    have hkept := State.ChannelsKept.sampleIn s ch src
    obtain ⟨n, x, y, -, -, h⟩ := s.sampleIn_shifts ch src
    refine .goOn (u := (s.sampleIn ch src).2) ⟨nofun, fun hv => hkept.valid hv⟩ ?_
    refine ⟨?_, ?_, ?_, ?_, hkept, nofun, .inr ⟨by rintro ⟨_, _, ⟨⟩⟩, ?_⟩⟩ <;> rw [h] <;> rfl
  | sampleOut ch src dst left out =>
    have hw : s.Worked (Job.terms (.sampleOut ch src dst left out) s) (s.memWrite dst out) := .quiet (by rintro ⟨_, _, ⟨⟩⟩)
    simp only [stepJob]
    split_ifs
    · exact .complete 4 hw
    · exact .goOn ⟨nofun, id⟩ hw
  | evalValid ch dst rate freq =>
    simp only [stepJob]
    split_ifs with hv hd
    · exact .raise (by decide) (.quiet (Job.not_counts_of_readsOnly rfl))
    · exact .raise (by decide) (.quiet (Job.not_counts_of_readsOnly rfl))
    · exact .goOn ⟨fun _ => rfl, fun _ => by simpa [Job.channelOk] using hv⟩ (.quiet (Job.not_counts_of_readsOnly rfl))
  | curveValid ch a left =>
    simp only [stepJob]
    split_ifs with hv
    · exact .raise (by decide) (.quiet (Job.not_counts_of_readsOnly rfl))
    · exact .goOn ⟨fun _ => rfl, fun _ => by simpa [Job.channelOk] using hv⟩ (.quiet (Job.not_counts_of_readsOnly rfl))
  | curveIn ch a left =>
    have hkept : s.ChannelsKept (s.memRead a).2 := by rw [State.memRead_state]; exact .of_eq rfl
    refine .goOn (u := (s.memRead a).2) ⟨fun _ => rfl, fun hv => hkept.valid hv⟩ ?_
    rw [State.memRead_state]
    exact .quiet (Job.not_counts_of_readsOnly rfl)
  | curveRate ch a left freq =>
    simp only [stepJob]
    split_ifs
    · exact .raise (by decide) (.quiet (Job.not_counts_of_readsOnly rfl))
    · exact .goOn ⟨fun _ => rfl, id⟩ (.quiet (Job.not_counts_of_readsOnly rfl))
  | magRead ch todo got rate freq next =>
    cases todo with
    | nil => exact stepMagnitude_portMove ch got rate freq next s
    | cons r todo =>
      have hw := stepCoefRead_worked (j := .magRead ch (r :: todo) got rate freq next) rfl ch r todo got s
      exact .goOn ⟨fun _ => rfl, fun hv => hw.channels.valid hv⟩ hw
  | rdRead ch todo got dst =>
    cases todo with
    | nil => exact .goOn ⟨fun _ => rfl, fun _ => trivial⟩ (.quiet (Job.not_counts_of_readsOnly rfl))
    | cons r todo =>
      have hw := stepCoefRead_worked (j := .rdRead ch (r :: todo) got dst) rfl ch r todo got s
      exact .goOn ⟨fun _ => rfl, fun hv => hw.channels.valid hv⟩ hw
  | rdWrite dst words =>
    cases words with
    | nil => exact .complete 2 (.quiet (Job.not_counts_of_readsOnly rfl))
    | cons w ws =>
      have hw : s.Worked (Job.terms (.rdWrite dst (w :: ws)) s) (s.memWrite dst w) := .quiet (Job.not_counts_of_readsOnly rfl)
      simp only [stepJob]
      split_ifs
      · exact .complete 2 hw
      · exact .goOn ⟨fun _ => rfl, fun _ => trivial⟩ hw

end Sys2Proof.Machine
end

section
/-! PROOFS. Everything a command's first step and a whole command can do (R81, R112, R212). -/

namespace Sys2Proof.Machine

/-! ## The first atomic step of a command (R81, R112) -/

theorem ne_D_of_R {p : Port} (h : p = .R) : p ≠ .D := by rw [h]; decide

theorem State.firstTerms_not_counts (s : State) : ¬s.firstTerms.counts := id

/-- A coefficient write begins with its draws, on a port and channel that may (R131). -/
theorem State.beginCoefWrite_portMove {s : State} {ch : BitVec 8} (hcur : s.cur = .R) (hch : ch.toNat < s.nch) (f res : Dword) (next : AfterCoef) :
    s.PortMove s.firstTerms (s.beginCoefWrite ch f res next) := by
  obtain ⟨n, h⟩ := s.freshCoefs_state (coefFn s.cfg.expForm f res)
  refine .goOn (u := (s.freshCoefs (coefFn s.cfg.expForm f res)).2) ⟨fun h => absurd h (ne_D_of_R hcur), fun _ => ?_⟩ ?_ <;> rw [h]
  · exact hch
  · exact .quiet s.firstTerms_not_counts

theorem startProcess_portMove {s : State} {ch : BitVec 8} (hcur : s.cur = .R) (hch : ch.toNat < s.nch) (src dst n : Nat) :
    s.PortMove s.firstTerms (startProcess ch src dst n s) := by
  have hs : s.Worked s.firstTerms s := .quiet s.firstTerms_not_counts
  unfold startProcess
  split_ifs
  · exact .complete 4 hs
  · exact .raise (by decide) hs
  · cases hp : preamble s.params with
    | error c => exact .raise (preamble_error hp) hs
    | ok a =>
      obtain ⟨f, res⟩ := a
      simp only
      split_ifs with hc
      · exact State.beginCoefWrite_portMove hcur hch f res _
      · refine .goOn ⟨fun h => absurd h (ne_D_of_R hcur), fun hk => ?_⟩ hs
        exact valid_of_cacheDiffers (State.forall_kernel hk hch) hp (Bool.eq_false_iff.2 hc)

theorem startCalc_portMove {s : State} {ch : BitVec 8} (hcur : s.cur = .R) (hch : ch.toNat < s.nch) (f res : Dword) :
    s.PortMove s.firstTerms (startCalc ch f res s) := by
  unfold startCalc
  split_ifs
  · exact State.beginCoefWrite_portMove hcur hch f res _
  · exact .raise (by decide) (.quiet s.firstTerms_not_counts)

theorem startEval_portMove (ch : BitVec 8) (freq : Word) (dst : Nat) (s : State) :
    s.PortMove s.firstTerms (startEval ch freq dst s) := by
  have hs : s.Worked s.firstTerms s := .quiet s.firstTerms_not_counts
  unfold startEval
  split_ifs
  · exact .raise (by decide) hs
  · exact .raise (by decide) hs
  · exact .goOn ⟨fun _ => rfl, fun _ => trivial⟩ hs

theorem startCurve_portMove (ch : BitVec 8) (a n : Nat) (s : State) : s.PortMove s.firstTerms (startCurve ch a n s) := by
  have hs : s.Worked s.firstTerms s := .quiet s.firstTerms_not_counts
  unfold startCurve
  split_ifs
  · exact .complete 3 hs
  · exact .raise (by decide) hs
  · exact .raise (by decide) hs
  · exact .goOn ⟨fun _ => rfl, fun _ => trivial⟩ hs

theorem startRdcoef_portMove (ch : BitVec 8) (dst : Nat) (s : State) : s.PortMove s.firstTerms (startRdcoef ch dst s) := by
  have hs : s.Worked s.firstTerms s := .quiet s.firstTerms_not_counts
  unfold startRdcoef
  split_ifs with h1 hv
  · exact .raise (by decide) hs
  · exact .raise (by decide) hs
  · exact .goOn ⟨fun _ => rfl, fun _ => by simpa [Job.channelOk] using hv⟩ hs

/-- A command that only port R may run passes its header checks on port R alone (R102). -/
theorem cur_of_headerFault {s : State} {hd : Header} (h : headerFault s.cur s.nch hd = none) (ho : hd.op.renderOnly = true) : s.cur = .R := by
  cases hcur : s.cur with
  | R => rfl
  | D =>
    rw [hcur] at h
    exact absurd (ho.symm.trans (renderOnly_of_headerFault h)) (by decide)

/-- A channel reset, on a port that may (R170). -/
theorem State.Worked.cleared {s : State} {m : MoveTerms} (hr : ¬m.reads) (hc : ¬m.counts) (ch : BitVec 8) :
    s.Worked m (s.setKernel ch (s.kernel ch).cleared) :=
  ⟨rfl, rfl, rfl, rfl, .setKernel fun _ => Kernel.kept_cleared _, fun h => absurd h hr, .inr ⟨hc, rfl⟩⟩

/-- Everything the first atomic step of a command can do (R81). -/
theorem startCommand_portMove (i : Instr) (s : State) : s.PortMove s.firstTerms (startCommand i s) := by
  unfold startCommand
  cases hf : headerFault s.cur s.nch i.header with
  | some c => exact .raise (headerFault_code hf) (.quiet s.firstTerms_not_counts)
  | none =>
    cases i with
    | wrp sel value => exact .complete 2 (.quiet s.firstTerms_not_counts)
    | process ch sil src dst n => exact startProcess_portMove (cur_of_headerFault hf rfl) (lt_nch_of_headerFault hf nofun) _ _ _
    | reset ch =>
      have hcur := cur_of_headerFault hf rfl
      exact .complete 1 (.cleared (ne_D_of_R hcur) s.firstTerms_not_counts ch)
    | calcCoef ch f res => exact startCalc_portMove (cur_of_headerFault hf rfl) (lt_nch_of_headerFault hf nofun) f res
    | eval ch freq dst => exact startEval_portMove ch freq _ s
    | curve ch a n => exact startCurve_portMove ch _ _ s
    | rdcoef ch dst => exact startRdcoef_portMove ch _ s

/-! ## A whole command (R112) -/

theorem curveEntry_leaves (ch : BitVec 8) (a : Nat) (s : State) : (curveEntry ch a s).Leaves s.readsTo := by
  cases h : curveEntry ch a s with
  | done t =>
    obtain ⟨ho, hk, hn, -⟩ := curveEntry_frame ch a s t (.inl h)
    exact ⟨ho, hk, hn⟩
  | failed c t =>
    obtain ⟨ho, hk, hn, -⟩ := curveEntry_frame ch a s t (.inr ⟨c, h⟩)
    refine ⟨?_, ho, hk, hn⟩
    obtain ⟨n, ⟨-, g⟩ | ⟨-, -, g⟩ | ⟨m, -, -, g⟩⟩ := curveEntry_cases ch a s <;> rw [g] at h <;> cases h <;> decide

theorem curveEntries_leaves (n : Nat) (ch : BitVec 8) (a : Nat) (s : State) : (curveEntries ch a n s).Leaves s.readsTo := by
  induction n generalizing a s with
  | zero => exact .refl s
  | succ n ih =>
    have hentry := curveEntry_leaves ch a s
    rw [curveEntries]
    cases h : curveEntry ch a s with
    | failed c t => rwa [h] at hentry
    | done t =>
      rw [h] at hentry
      exact (ih (a + 2) t).imp fun u hu => hentry.trans hu

theorem evalRule_leaves (ch : BitVec 8) (freq : Word) (dst : Nat) (s : State) : (evalRule ch freq dst s).Leaves s.readsTo := by
  unfold evalRule
  split_ifs
  case neg => exact writeMagnitude_leaves _ _ _ _ s
  all_goals exact ⟨by decide, .refl s⟩

theorem curveRule_leaves (ch : BitVec 8) (a n : Nat) (s : State) : (curveRule ch a n s).Leaves s.readsTo := by
  unfold curveRule
  split_ifs
  case pos => exact .refl s
  case neg => exact curveEntries_leaves n ch a s
  all_goals exact ⟨by decide, .refl s⟩

theorem rdcoefRule_leaves (ch : BitVec 8) (dst : Nat) (s : State) : (rdcoefRule ch dst s).Leaves s.readsTo := by
  unfold rdcoefRule
  split_ifs
  · exact ⟨by decide, .refl s⟩
  · exact ⟨by decide, .refl s⟩
  · rw [State.memWrites_eq]
    exact .memory s s.draws _

theorem State.Worked.of_sameOutside {s u : State} {m : MoveTerms} (h : s.sameOutside u) (hkept : s.ChannelsKept u)
    (hr : m.reads → u.kernels = s.kernels)
    (hn : m.counts ∧ u.ncoef = s.ncoef + 1 ∨ ¬m.counts ∧ u.ncoef = s.ncoef) : s.Worked m u :=
  ⟨h.portR, h.portD, h.cfg, h.cur, hkept, hr, hn⟩

theorem State.writeCoef_ncoef (s : State) (ch : BitVec 8) (c : Coefs) : (s.writeCoef ch c).ncoef = s.ncoef + 1 := by
  obtain ⟨n, h⟩ := s.freshCoefs_state c
  rw [State.writeCoef_eq, h]
  rfl

theorem calcRule_worked {s : State} {ch : BitVec 8} (hcur : s.cur = .R) (hch : ch.toNat < s.nch) (f res : Dword) :
    (calcRule ch f res s).Leaves (s.Worked (commandTerms (.calcCoef ch f res) s)) := by
  have hcounts : (commandTerms (.calcCoef ch f res) s).counts ↔ calcDomain f res = true := by
    simp [commandTerms, computesCoefficients, hcur, hch, calcDomain, and_assoc]
  unfold calcRule
  split_ifs with hd
  · exact .of_sameOutside (State.writeCoef_sameOutside s ch _) (.writeCoef s ch _) (fun h => absurd h (ne_D_of_R hcur))
      (.inl ⟨hcounts.2 hd, s.writeCoef_ncoef ch _⟩)
  · exact ⟨by decide, .quiet (mt hcounts.1 hd)⟩

theorem State.recompute_ncoef (s : State) (ch : BitVec 8) (f res : Dword) :
    (s.recompute ch f res).ncoef = if cacheDiffers (s.kernel ch) f res then s.ncoef + 1 else s.ncoef := by
  unfold State.recompute
  split_ifs
  · rw [State.writeCache_ncoef, State.writeCoef_ncoef]
  · rfl

theorem cacheDiffers_iff (k : Kernel) (f res : Dword) : cacheDiffers k f res = true ↔ ¬(eq64 f k.lastF = true ∧ eq64 res k.lastR = true) := by
  rw [cacheDiffers]
  cases eq64 f k.lastF <;> cases eq64 res k.lastR <;> decide

/-- When a PROCESS that passed its header checks computes coefficients (R154). -/
theorem computesCoefficients_process {s : State} {ch : BitVec 8} (hcur : s.cur = .R) (hch : ch.toNat < s.nch) (sil : Bool) (src dst n : Word) :
    computesCoefficients (.process ch sil src dst n) s ↔
      n.toNat ≠ 0 ∧ (s.inRange src.toNat n.toNat && s.inRange dst.toNat n.toNat) = true ∧
        ∃ f res, preamble s.params = .ok (f, res) ∧ cacheDiffers (s.kernel ch) f res = true := by
  simp only [computesCoefficients, hcur, hch, true_and, Nat.pos_iff_ne_zero, State.inRange, Bool.and_eq_true, decide_eq_true_eq,
    cacheDiffers_iff, and_assoc]

theorem processRule_worked {s : State} {ch : BitVec 8} (hcur : s.cur = .R) (hch : ch.toNat < s.nch) (sil : Bool) (src dst n : Word) :
    (processRule ch src.toNat dst.toNat n.toNat s).Leaves (s.Worked (commandTerms (.process ch sil src dst n) s)) := by
  have hcounts := computesCoefficients_process hcur hch sil src dst n
  unfold processRule
  split_ifs with hn hr
  · exact .quiet fun h => (hcounts.1 h).1 hn
  · exact ⟨by decide, .quiet fun h => by simp [(hcounts.1 h).2.1] at hr⟩
  · cases hp : preamble s.params with
    | error c =>
      refine ⟨preamble_error hp, .quiet fun h => ?_⟩
      obtain ⟨-, -, f, res, hok, -⟩ := hcounts.1 h
      exact nomatch hp.symm.trans hok
    | ok a =>
      obtain ⟨f, res⟩ := a
      have hcounts' : (commandTerms (.process ch sil src dst n) s).counts ↔ cacheDiffers (s.kernel ch) f res = true := by
        refine hcounts.trans ⟨fun ⟨_, _, f', res', hok, hd⟩ => ?_, fun hd => ⟨hn, by simpa using hr, f, res, hp, hd⟩⟩
        cases hp.symm.trans hok
        exact hd
      refine .of_sameOutside ((s.recompute_sameOutside ch f res).trans (State.samples_sameOutside _ ch _ _ _))
        (.trans (.recompute s ch f res) (.samples _ ch _ _ _)) (fun h => absurd h (ne_D_of_R hcur)) ?_
      rw [(State.samples_memory _ ch _ _ _).1, s.recompute_ncoef, hcounts']
      split_ifs with hc
      · exact .inl ⟨hc, rfl⟩
      · exact .inr ⟨hc, rfl⟩

/-- However the rule of a command ends, once its header checks are passed (R112). -/
theorem commandRule_worked {i : Instr} {s : State} (hf : headerFault s.cur s.nch i.header = none) :
    (commandRule i s).Leaves (s.Worked (commandTerms i s)) := by
  cases i with
  | wrp sel value => exact .quiet id
  | process ch sil src dst n => exact processRule_worked (cur_of_headerFault hf rfl) (lt_nch_of_headerFault hf nofun) sil src dst n
  | reset ch => exact .cleared (ne_D_of_R (cur_of_headerFault hf rfl)) id ch
  | calcCoef ch f res => exact calcRule_worked (cur_of_headerFault hf rfl) (lt_nch_of_headerFault hf nofun) f res
  | eval ch freq dst => exact (evalRule_leaves ch freq _ s).imp fun u => .of_readsTo id
  | curve ch a n => exact (curveRule_leaves ch _ _ s).imp fun u => .of_readsTo id
  | rdcoef ch dst => exact (rdcoefRule_leaves ch _ s).imp fun u => .of_readsTo id

/-- A command that computes coefficients passes its header checks (R102, R106). -/
theorem headerFault_of_computes {i : Instr} {s : State} (h : computesCoefficients i s) : headerFault s.cur s.nch i.header = none := by
  cases i with
  | process | calcCoef => exact headerFault_none nofun (.inl h.1) h.2.1
  | wrp | reset | eval | curve | rdcoef => exact h.elim

/-- Everything a whole command can do (R112, R212). -/
theorem exec_portMove {i : Instr} {s t : State} (h : exec i s = .next t) : s.PortMove (commandTerms i s) t := by
  rcases exec_cases h with ⟨c, hf, rfl⟩ | ⟨hf, c, u, hr, rfl⟩ | ⟨hf, u, hr, rfl⟩
  · exact .raise (headerFault_code hf) (.quiet fun hc => nomatch hf.symm.trans (headerFault_of_computes hc))
  · have hw := commandRule_worked hf
    rw [hr] at hw
    exact .raise hw.1 hw.2
  · have hw := commandRule_worked hf
    rw [hr] at hw
    exact .complete i.len hw

end Sys2Proof.Machine
end

section
/-! PROOFS. Everything a host move and a step of the machine can do (R42–R49, R79–R81, R240). -/

namespace Sys2Proof.Machine

/-! ## Host moves (R42–R48, R240) -/

/-- Everything a host move but power-on reset can do to a port: nothing, a push (R43), or the clear of an error (R216). -/
inductive PortState.HostMoved (m : HostMove) (p : Port) (ps : PortState) : PortState → Prop
  | same : HostMoved m p ps ps
  | pushed (w : Word) (hm : m = .regWrite (commandOffset p) 4 w) (he : ps.err = false) : HostMoved m p ps { ps with fifo := ps.fifo ++ [w] }
  | cleared (cp : Word) : HostMoved m p ps { ps with fifo := [], cp := cp, err := false, errCode := .none }

/-- What every host move but power-on reset leaves, and what it does to the ports. -/
structure State.HostMoved (m : HostMove) (s t : State) : Prop where
  kernels : t.kernels = s.kernels
  cfg : t.cfg = s.cfg
  ncoef : t.ncoef = s.ncoef
  port : ∀ p, (s.portState p).HostMoved m p (t.portState p)

theorem State.HostMoved.of_same {m : HostMove} {s t : State} (hk : t.kernels = s.kernels) (hc : t.cfg = s.cfg) (hn : t.ncoef = s.ncoef)
    (hR : t.portR = s.portR) (hD : t.portD = s.portD) : State.HostMoved m s t := by
  refine ⟨hk, hc, hn, fun p => ?_⟩
  have hp : t.portState p = s.portState p := by cases p with | R => exact hR | D => exact hD
  rw [hp]
  exact .same

/-- A move that changes one port only. -/
theorem State.HostMoved.of_port {m : HostMove} {s t : State} (hk : t.kernels = s.kernels) (hc : t.cfg = s.cfg) (hn : t.ncoef = s.ncoef)
    (p : Port) (hp : (s.portState p).HostMoved m p (t.portState p)) (hq : ∀ q, q ≠ p → t.portState q = s.portState q) :
    State.HostMoved m s t := by
  refine ⟨hk, hc, hn, fun q => ?_⟩
  by_cases h : q = p
  · exact h ▸ hp
  · rw [hq q h]; exact .same

theorem State.hostMoved_push (s : State) (p : Port) (w : Word) : State.HostMoved (.regWrite (commandOffset p) 4 w) s (s.push p w) := by
  simp only [State.push]
  split_ifs with he
  · exact .of_same rfl rfl rfl rfl rfl
  · refine .of_port (by simp) (by simp) (by simp) p ?_ fun q h => s.portState_setPort_ne _ _ _ h
    rw [State.portState_setPort_same]
    exact .pushed w rfl (Bool.eq_false_iff.2 he)

theorem State.hostMoved_writeStatus (m : HostMove) (s : State) (p : Port) (w : Word) : State.HostMoved m s (s.writeStatus p w) := by
  unfold State.writeStatus
  split_ifs
  · unfold State.clear
    refine .of_port (by simp) (by simp) (by simp) p ?_ fun q h => ?_
    · rw [State.setErrorsSeen_portState, State.portState_setPort_same]
      exact .cleared _
    · rw [State.setErrorsSeen_portState, s.portState_setPort_ne _ _ _ h]
  · exact .of_same rfl rfl rfl rfl rfl

theorem State.hostMoved_hostSees (m : HostMove) (s : State) (off : Nat) (w : Word) : State.HostMoved m s ((s.answer w).hostSees off) := by
  rcases (s.answer w).hostSees_eq off with h | ⟨p, h | h⟩ <;> rw [h] <;> exact .of_same rfl rfl rfl rfl rfl

theorem State.hostMoved_memRead (m : HostMove) (s : State) (a : Nat) : State.HostMoved m s ((s.memRead a).2.answer (s.memRead a).1) := by
  rw [State.memRead_state]
  exact .of_same rfl rfl rfl rfl rfl

theorem State.hostMoved_writeHostRegister (s : State) (off : Nat) (w : Word) :
    State.HostMoved (.regWrite off 4 w) s (s.writeHostRegister off w) := by
  unfold State.writeHostRegister
  split
  · exact s.hostMoved_push .R w
  · exact s.hostMoved_push .D w
  · exact s.hostMoved_writeStatus _ .R w
  · exact s.hostMoved_writeStatus _ .D w
  · exact .of_same rfl rfl rfl rfl rfl

/-- Everything a host move can do. -/
theorem hostMove_cases {m : HostMove} {s t : State} (h : hostMove m s = .next t) :
    m = .powerOn ∧ t = s.powerOnReset ∨ m ≠ .powerOn ∧ State.HostMoved m s t := by
  cases m with
  | powerOn => cases h; exact .inl ⟨rfl, rfl⟩
  | regWrite off size w =>
    refine .inr ⟨nofun, ?_⟩
    simp only [hostMove] at h
    split_ifs at h with ha
    cases h
    simp only [registerAccess, Bool.and_eq_true, decide_eq_true_eq] at ha
    rw [ha.1.1]
    exact s.hostMoved_writeHostRegister off w
  | regRead off size =>
    refine .inr ⟨nofun, ?_⟩
    simp only [hostMove] at h
    split_ifs at h
    cases h
    exact s.hostMoved_hostSees _ off _
  | memWrite off size w =>
    refine .inr ⟨nofun, ?_⟩
    simp only [hostMove] at h
    split_ifs at h
    cases h
    exact .of_same rfl rfl rfl rfl rfl
  | memRead off size =>
    refine .inr ⟨nofun, ?_⟩
    simp only [hostMove] at h
    split_ifs at h
    cases h
    exact s.hostMoved_memRead _ _

/-! ## Which agents can move (R79) -/

theorem State.mem_ready_host (s : State) : Agent.host ∈ s.ready ↔ s.hostReady = true := by
  simp [State.ready]

theorem State.mem_ready_port (s : State) (p : Port) : Agent.port p ∈ s.ready ↔ s.portReady p = true := by
  cases p <;> simp [State.ready]

/-- A port that can move has no error (R215). -/
theorem State.err_of_mem_ready {s : State} {p : Port} (h : Agent.port p ∈ s.ready) : (s.portState p).err = false := by
  rw [State.mem_ready_port, State.portReady, Bool.and_eq_true, Bool.not_eq_true'] at h
  exact h.1

/-- A host that can move has a move left that need not wait (R43). -/
theorem State.host_of_mem_ready {s : State} (h : Agent.host ∈ s.ready) : ∃ m ms, s.host = m :: ms ∧ s.hostStalled m = false := by
  rw [State.mem_ready_host, State.hostReady] at h
  cases hh : s.host with
  | nil => rw [hh] at h; cases h
  | cons m ms => rw [hh] at h; exact ⟨m, ms, rfl, by simpa using h⟩

theorem hostStep_cons {s : State} {m : HostMove} {ms : List HostMove} (h : s.host = m :: ms) : hostStep s = hostMove m (s.setHost ms) := by
  rw [hostStep, h]

/-! ## Steps (R79–R81) -/

/-- What a port finds at the head of its FIFO, when that is no whole command, is an error with a code or nothing to do (R112, R113). -/
theorem State.fetch_cases (s : State) (p : Port) :
    s.fetch p = .nothing ∨ s.fetch p = .wait ∨ (∃ c, c ≠ .none ∧ s.fetch p = .error c) ∨
      ∃ i rest, decode (s.portState p).fifo = .ok i rest ∧ s.fetch p = .command i := by
  unfold State.fetch
  cases hd : decode (s.portState p).fifo with
  | empty => exact .inl rfl
  | bad e => exact .inr (.inr (.inl ⟨_, by cases e <;> decide, rfl⟩))
  | ok i rest => exact .inr (.inr (.inr ⟨i, rest, rfl, rfl⟩))
  | short hdr =>
    cases hf : headerFault p s.nch hdr with
    | some c => exact .inr (.inr (.inl ⟨c, headerFault_code hf, by simp only [hf]⟩))
    | none => exact .inr (.inl (by simp only [hf]))

/-- Everything a port's move can be: a later step of its command, nothing, a header error, or the command at the head of its FIFO. -/
theorem State.portStep_cases {s t : State} {p : Port} {run : Instr → State → Host.Outcome State Fault Refusal}
    (h : s.portStep p run = .next t) :
    (∃ j, (s.portState p).job = some j ∧ t = stepJob j (s.setCur p)) ∨
    (s.portState p).job = none ∧ (t = s ∨ (∃ c, c ≠ .none ∧ t = (s.setCur p).raise c) ∨
      ∃ i rest, decode (s.portState p).fifo = .ok i rest ∧ run i (s.setCur p) = .next t) := by
  unfold State.portStep at h
  cases hj : (s.portState p).job with
  | some j => rw [hj] at h; cases h; exact .inl ⟨j, rfl, rfl⟩
  | none =>
    rw [hj] at h
    refine .inr ⟨rfl, ?_⟩
    rcases s.fetch_cases p with hf | hf | ⟨c, hc, hf⟩ | ⟨i, rest, hd, hf⟩ <;> rw [hf] at h
    · cases h; exact .inl rfl
    · cases h; exact .inl rfl
    · cases h; exact .inr (.inl ⟨c, hc, rfl⟩)
    · exact .inr (.inr ⟨i, rest, hd, h⟩)

/-- What a step does that is a port's move: the move, the ground it is made on, and the state it is made in, which is the state before but for the
running port and the count of free choices. -/
inductive PortStep (s : State) (p : Port) (u : State) : MoveTerms → State → Prop
  | job {j : Job} (hj : (s.portState p).job = some j) : PortStep s p u (j.terms u) (stepJob j u)
  | error {c : ErrCode} (hj : (s.portState p).job = none) (hc : c ≠ .none) : PortStep s p u u.firstTerms (u.raise c)
  | begins (i : Instr) (hj : (s.portState p).job = none) : PortStep s p u u.firstTerms (startCommand i u)
  | whole {i : Instr} {rest : List Word} {t : State} (hr : s.ready = [.port p]) (hj : (s.portState p).job = none)
      (hd : decode (s.portState p).fifo = .ok i rest) (ht : exec i u = .next t) : PortStep s p u (commandTerms i u) t

/-- A move of the host that can move is its next move (R43). -/
theorem hostStep_moves {s t : State} (n : Nat) (hr : Agent.host ∈ s.ready) (h : hostStep (s.setTicks n) = .next t) :
    ∃ m ms, s.host = m :: ms ∧ s.hostStalled m = false ∧ hostMove m ((s.setTicks n).setHost ms) = .next t := by
  obtain ⟨m, ms, hh, hst⟩ := State.host_of_mem_ready hr
  exact ⟨m, ms, hh, hst, (hostStep_cons (s := s.setTicks n) hh).symm.trans h⟩

/-- A port's move, for any way `run` of taking up a command that is one of a step's. -/
theorem State.portStep_moves {s t : State} {p : Port} {run : Instr → State → Host.Outcome State Fault Refusal} (n : Nat)
    (hrun : ∀ i rest, (s.portState p).job = none → decode (s.portState p).fifo = .ok i rest → run i ((s.setTicks n).setCur p) = .next t →
      ∃ m, PortStep s p ((s.setTicks n).setCur p) m t)
    (h : (s.setTicks n).portStep p run = .next t) : (∃ k, t = s.setTicks k) ∨ ∃ m, PortStep s p ((s.setTicks n).setCur p) m t := by
  have hcases := State.portStep_cases h
  rw [State.setTicks_portState] at hcases
  rcases hcases with ⟨j, hj, rfl⟩ | ⟨hj, rfl | ⟨c, hc, rfl⟩ | ⟨i, rest, hd, ht⟩⟩
  · exact .inr ⟨_, .job hj⟩
  · exact .inl ⟨n, rfl⟩
  · exact .inr ⟨_, .error hj hc⟩
  · exact .inr (hrun i rest hj hd ht)

/-- Everything a step can be: nothing, the host's next move, or a move of a port that can move. -/
theorem step_moves {s t : State} (h : step s = .next t) :
    (∃ n, t = s.setTicks n) ∨
    (∃ n m ms, s.host = m :: ms ∧ s.hostStalled m = false ∧ hostMove m ((s.setTicks n).setHost ms) = .next t) ∨
    ∃ n p m, Agent.port p ∈ s.ready ∧ PortStep s p ((s.setTicks n).setCur p) m t := by
  rcases step_cases h with ⟨-, hq⟩ | ⟨a, hr, ha⟩ | ⟨a, hr, ha⟩
  · exact .inl ⟨s.ticks, State.quiescent_next hq⟩
  · have hmem : a ∈ s.ready := by rw [hr]; exact List.mem_singleton_self a
    cases a with
    | host => exact .inr (.inl ⟨s.ticks, hostStep_moves s.ticks hmem ha⟩)
    | port p =>
      have hport := State.portStep_moves s.ticks (fun i rest hj hd ht => ⟨_, .whole hr hj hd ht⟩) ha
      exact hport.imp id fun ⟨m, hm⟩ => .inr ⟨s.ticks, p, m, hmem, hm⟩
  · cases a with
    | host => exact .inr (.inl ⟨s.ticks + 1, hostStep_moves (s.ticks + 1) hr ha⟩)
    | port p =>
      have hstep : (s.setTicks (s.ticks + 1)).portStep p (fun i u => .next (startCommand i u)) = .next t := ha
      have hport := State.portStep_moves (s.ticks + 1) (fun i _ hj _ ht => by cases ht; exact ⟨_, .begins i hj⟩) hstep
      exact hport.imp id fun ⟨m, hm⟩ => .inr ⟨s.ticks + 1, p, m, hr, hm⟩

theorem PortStep.portMove {s u t : State} {p : Port} {m : MoveTerms} (h : PortStep s p u m t) : u.PortMove m t := by
  cases h with
  | job => exact stepJob_portMove _ u
  | error _ hc => exact .raise hc (.quiet id)
  | begins i => exact startCommand_portMove i u
  | whole _ _ _ ht => exact exec_portMove ht

end Sys2Proof.Machine
end

section
/-! PROOFS. The invariants of the machine, each from what a step can do to a port and to the channels (O20, O55, O57–O59). -/

namespace Sys2Proof.Machine

/-! ## What a port's move leaves -/

@[simp] theorem State.setJob_kernels (s : State) (j : Job) : (s.setJob j).kernels = s.kernels := by simp [State.setJob]
@[simp] theorem State.setJob_ncoef (s : State) (j : Job) : (s.setJob j).ncoef = s.ncoef := by simp [State.setJob]
@[simp] theorem State.setJob_cfg (s : State) (j : Job) : (s.setJob j).cfg = s.cfg := by simp [State.setJob]

theorem State.portState_setJob_cur (s : State) (j : Job) : (s.setJob j).portState s.cur = { s.portState s.cur with job := some j } := by
  simp [State.setJob]

theorem State.portState_setJob_ne (s : State) (j : Job) (q : Port) (h : q ≠ s.cur) : (s.setJob j).portState q = s.portState q := by
  simp [State.setJob, State.portState_setPort_ne _ _ _ _ h]

/-- The work of a port's move shows in the state after it. -/
theorem State.PortMove.work {s t : State} {m : MoveTerms} (h : s.PortMove m t) :
    ∃ u, s.Worked m u ∧ t.kernels = u.kernels ∧ t.ncoef = u.ncoef ∧ t.cfg = u.cfg := by
  cases h with
  | complete len h => exact ⟨_, h, by simp, by simp, by simp⟩
  | raise hc h => exact ⟨_, h, by simp, by simp, by simp⟩
  | goOn hj h => exact ⟨_, h, by simp, by simp, by simp⟩

theorem State.PortMove.channels {s t : State} {m : MoveTerms} (h : s.PortMove m t) : s.ChannelsKept t := by
  obtain ⟨u, hu, hk, -, -⟩ := h.work
  exact hu.channels.trans (.of_eq hk)

theorem State.PortMove.cfg {s t : State} {m : MoveTerms} (h : s.PortMove m t) : t.cfg = s.cfg := by
  obtain ⟨u, hu, -, -, hc⟩ := h.work
  exact hc.trans hu.cfg

theorem State.PortMove.kernels {s t : State} {m : MoveTerms} (h : s.PortMove m t) (hr : m.reads) : t.kernels = s.kernels := by
  obtain ⟨u, hu, hk, -, -⟩ := h.work
  exact hk.trans (hu.kernels hr)

theorem State.PortMove.ncoef {s t : State} {m : MoveTerms} (h : s.PortMove m t) :
    (m.counts → t.ncoef = s.ncoef + 1) ∧ (¬m.counts → t.ncoef = s.ncoef) := by
  obtain ⟨u, hu, -, hn, -⟩ := h.work
  rw [hn]
  rcases hu.ncoef with ⟨hc, hu⟩ | ⟨hc, hu⟩
  · exact ⟨fun _ => hu, absurd hc⟩
  · exact ⟨fun h => absurd h hc, fun _ => hu⟩

/-- A port's move leaves the other port. -/
theorem State.PortMove.other {s t : State} {m : MoveTerms} (h : s.PortMove m t) {q : Port} (hq : q ≠ s.cur) : t.portState q = s.portState q := by
  cases h with
  | complete len h => rw [State.portState_complete_ne _ _ _ (h.cur ▸ hq), h.portState]
  | raise hc h => rw [State.portState_raise_ne _ _ _ (h.cur ▸ hq), h.portState]
  | goOn hj h => rw [State.portState_setJob_ne _ _ _ (h.cur ▸ hq), h.portState]

/-- What a port's move makes of its port. -/
theorem State.PortMove.running {s t : State} {m : MoveTerms} (h : s.PortMove m t) :
    (∃ len cp, t.portState s.cur = { s.portState s.cur with fifo := (s.portState s.cur).fifo.drop len, cp := cp, job := none }) ∨
    (∃ c errCp, c ≠ .none ∧ t.portState s.cur = { s.portState s.cur with err := true, errCode := c, errCp := errCp, job := none }) ∨
    ∃ j : Job, j.Follows m t ∧ t.portState s.cur = { s.portState s.cur with job := some j } := by
  cases h with
  | complete len h => exact .inl ⟨len, _, by rw [← h.cur, State.portState_complete_cur, h.portState]⟩
  | raise hc h => exact .inr (.inl ⟨_, _, hc, by rw [← h.cur, State.portState_raise_cur, h.portState]⟩)
  | goOn hj h =>
    refine .inr (.inr ⟨_, ⟨hj.readsOnly, fun hr => ?_⟩, by rw [← h.cur, State.portState_setJob_cur, h.portState]⟩)
    exact (State.ChannelsKept.of_eq (State.setJob_kernels _ _)).channelOk (hj.channelOk hr)

/-! ## What a step makes of a port -/

theorem PortStep.reads {s t : State} {p : Port} {n : Nat} {m : MoveTerms} (h : PortStep s p ((s.setTicks n).setCur p) m t)
    (hp : p = .D) (hr : (s.portState p).readsOnly = true) : m.reads := by
  cases h with
  | job hj => rwa [PortState.readsOnly, hj] at hr
  | error | begins | whole => exact hp

theorem PortStep.relies {s t : State} {p : Port} {n : Nat} {m : MoveTerms} (h : PortStep s p ((s.setTicks n).setCur p) m t)
    (hs : s.coefficientsOk) : m.relies := by
  cases h with
  | job hj => exact State.ChannelsKept.channelOk (.of_eq rfl) (hs.2 p _ hj)
  | error | begins | whole => exact hs.1

/-- Everything a step can make of a port: the host's push with room for it (R43), its clear (R216), power-on reset (R240), the end of a command
(R114, R212), and how far a command has come. -/
inductive PortChange (s t : State) (p : Port) : PortState → Prop
  | same : PortChange s t p (s.portState p)
  | pushed (w : Word) (hroom : (s.portState p).fifo.length < s.cfg.fifoDepth) :
    PortChange s t p { s.portState p with fifo := (s.portState p).fifo ++ [w] }
  | cleared (cp : Word) : PortChange s t p { s.portState p with fifo := [], cp := cp, err := false, errCode := .none }
  | created : PortChange s t p PortState.created
  | completed (len : Nat) (cp : Word) :
    PortChange s t p { s.portState p with fifo := (s.portState p).fifo.drop len, cp := cp, job := none }
  | raised {c : ErrCode} (errCp : Word) (hc : c ≠ .none) :
    PortChange s t p { s.portState p with err := true, errCode := c, errCp := errCp, job := none }
  | wentOn {j : Job} (he : (s.portState p).err = false) (hr : p = .D → (s.portState p).readsOnly = true → j.readsOnly = true)
    (hc : s.coefficientsOk → j.channelOk t) : PortChange s t p { s.portState p with job := some j }

/-- A push that need not wait has room (R43). -/
theorem State.room_of_not_stalled {s : State} {p : Port} {w : Word} (h : s.hostStalled (.regWrite (commandOffset p) 4 w) = false)
    (he : (s.portState p).err = false) : (s.portState p).fifo.length < s.cfg.fifoDepth := by
  cases p <;> simpa [State.hostStalled, commandOffset, registerAccess, State.fifoFull, he] using h

theorem step_port {s t : State} (h : step s = .next t) (p : Port) : PortChange s t p (t.portState p) := by
  rcases step_moves h with ⟨n, rfl⟩ | ⟨n, m, ms, hh, hst, hm⟩ | ⟨n, q, m, hq, hm⟩
  · rw [State.setTicks_portState]
    exact .same
  · rcases hostMove_cases hm with ⟨rfl, rfl⟩ | ⟨-, hm⟩
    · cases p <;> exact .created
    · have hp := hm.port p
      rw [State.setHost_portState, State.setTicks_portState] at hp
      generalize t.portState p = ps at hp ⊢
      cases hp with
      | same => exact .same
      | pushed w hmove he => exact .pushed w (State.room_of_not_stalled (hmove ▸ hst) he)
      | cleared cp => exact .cleared cp
  · have hmove := hm.portMove
    by_cases hpq : p = q
    · subst hpq
      have hrun := hmove.running
      simp only [State.setCur_cur, State.setCur_portState, State.setTicks_portState] at hrun
      rcases hrun with ⟨len, cp, hps⟩ | ⟨c, errCp, hc, hps⟩ | ⟨j, hj, hps⟩ <;> rw [hps]
      · exact .completed len cp
      · exact .raised errCp hc
      · exact .wentOn (State.err_of_mem_ready hq) (fun hp hr => hj.readsOnly (hm.reads hp hr)) fun hs => hj.channelOk (hm.relies hs)
    · rw [hmove.other hpq, State.setCur_portState, State.setTicks_portState]
      exact .same

/-- A step keeps the channels, or it is a power-on reset (R240). -/
theorem step_channels {s t : State} (h : step s = .next t) :
    s.ChannelsKept t ∨ t.kernels = List.replicate s.nch Kernel.created ∧ ∀ p, t.portState p = PortState.created := by
  rcases step_moves h with ⟨n, rfl⟩ | ⟨n, m, ms, -, -, hm⟩ | ⟨n, p, m, -, hm⟩
  · exact .inl (.of_eq rfl)
  · rcases hostMove_cases hm with ⟨-, rfl⟩ | ⟨-, hm⟩
    · exact .inr ⟨rfl, fun p => by cases p <;> rfl⟩
    · exact .inl (.of_eq hm.kernels)
  · exact .inl (.trans (t := (s.setTicks n).setCur p) (.of_eq rfl) hm.portMove.channels)

theorem step_cfg {s t : State} (h : step s = .next t) : t.cfg = s.cfg := by
  rcases step_moves h with ⟨n, rfl⟩ | ⟨n, m, ms, -, -, hm⟩ | ⟨n, p, m, -, hm⟩
  · rfl
  · rcases hostMove_cases hm with ⟨-, rfl⟩ | ⟨-, hm⟩
    · rfl
    · exact hm.cfg
  · exact hm.portMove.cfg

/-! ## The invariants -/

theorem PortChange.errorOk {s t : State} {p : Port} {ps : PortState} (h : PortChange s t p ps) (hs : (s.portState p).errorOk = true) :
    ps.errorOk = true := by
  cases h with
  | same => exact hs
  | pushed w => exact hs
  | cleared cp => rfl
  | created => rfl
  | completed len cp =>
    cases he : (s.portState p).err with
    | false => simpa [PortState.errorOk, he] using hs
    | true =>
      have hcode : (s.portState p).errCode ≠ .none ∧ (s.portState p).job = none := by simpa [PortState.errorOk, he] using hs
      simpa [PortState.errorOk, he] using hcode.1
  | raised errCp hc => simpa [PortState.errorOk] using hc
  | wentOn he hr hc => simpa [PortState.errorOk, he] using hs

/-- Settles O20: each change that a step can make of a port keeps its error state consistent. -/
theorem errorStateInvariant : Obligations.ErrorStateInvariant :=
  fun _ _ hR hD h => ⟨(step_port h .R).errorOk hR, (step_port h .D).errorOk hD⟩

theorem PortChange.readsOnly {s t : State} {ps : PortState} (h : PortChange s t .D ps) (hs : s.portD.readsOnly = true) :
    ps.readsOnly = true := by
  cases h with
  | same | pushed | cleared => exact hs
  | created | completed | raised => rfl
  | wentOn he hr hc => exact hr rfl hs

/-- Settles O55: port D goes on only with commands that its header checks let through, and those only read. -/
theorem portDReadsOnlyInvariant : Obligations.PortDReadsOnlyInvariant :=
  fun _ _ hs h => (step_port h .D).readsOnly hs

theorem PortChange.channelOk {s t : State} {p : Port} {ps : PortState} (h : PortChange s t p ps) (hkept : s.ChannelsKept t)
    (hs : s.coefficientsOk) {j : Job} (hj : ps.job = some j) : j.channelOk t := by
  cases h with
  | same | pushed | cleared => exact hkept.channelOk (hs.2 p j hj)
  | created | completed | raised => cases hj
  | wentOn he hr hc => exact Option.some.inj hj ▸ hc hs

/-- Settles O57: the channels are kept, and a command in progress goes on only with what it relies on. -/
theorem cacheSentinelInvariant : Obligations.CacheSentinelInvariant := by
  intro s t hs h
  rcases step_channels h with hkept | ⟨hk, hp⟩
  · exact ⟨hkept.forall_mem (fun _ _ hkk' => hkk'.cache) hs.1, fun p j => (step_port h p).channelOk hkept hs⟩
  · refine ⟨fun k hmem => ?_, fun p j hj => ?_⟩
    · rw [hk] at hmem
      exact List.eq_of_mem_replicate hmem ▸ by decide
    · rw [hp p] at hj
      cases hj

theorem Kernel.imagesOk_created : Kernel.created.imagesOk := ⟨isImage32_zero, isImage32_zero, isImage32_zero, isImage32_zero⟩

/-- Settles O58: only `sampleIn` and a reset write the filter state, and they write images. -/
theorem filterStateImagesInvariant : Obligations.FilterStateImagesInvariant := by
  intro s t hs h
  rcases step_channels h with hkept | ⟨hk, -⟩
  · exact hkept.forall_mem (fun _ _ hkk' => hkk'.images) hs
  · intro k hmem
    rw [hk] at hmem
    exact List.eq_of_mem_replicate hmem ▸ Kernel.imagesOk_created

theorem PortChange.fifo_le {s t : State} {p : Port} {ps : PortState} (h : PortChange s t p ps)
    (hs : (s.portState p).fifo.length ≤ s.cfg.fifoDepth) : ps.fifo.length ≤ s.cfg.fifoDepth := by
  cases h with
  | same | raised | wentOn => exact hs
  | pushed w hroom => rw [List.length_append]; exact hroom
  | cleared | created => exact Nat.zero_le _
  | completed len cp => exact (List.drop_sublist len _).length_le.trans hs

theorem step_nch {s t : State} (h : step s = .next t) : t.nch = s.nch := by
  rcases step_channels h with hkept | ⟨hk, -⟩
  · exact hkept.nch
  · rw [State.nch, hk, List.length_replicate]

/-- Settles O59: a FIFO grows only by a push with room for it. -/
theorem fifoDepthInvariant : Obligations.FifoDepthInvariant := by
  intro s t hR hD h
  rw [step_cfg h]
  exact ⟨(step_port h .R).fifo_le hR, (step_port h .D).fifo_le hD, rfl, step_nch h⟩

end Sys2Proof.Machine
end

section
/-! PROOFS. What `NCOEF` counts (R46), and what port D never touches (R38, R82). -/

namespace Sys2Proof.Machine

/-! ## The step of a port that can move alone -/

theorem step_alone_job {s : State} {p : Port} {j : Job} (hr : s.ready = [.port p]) (hj : (s.portState p).job = some j) :
    step s = .next (stepJob j (s.setCur p)) := by
  simp only [step, hr, State.aloneStep, State.portStep, hj]

theorem step_alone_command {s : State} {p : Port} {i : Instr} {rest : List Word} (hr : s.ready = [.port p]) (hj : (s.portState p).job = none)
    (hd : decode (s.portState p).fifo = .ok i rest) : step s = exec i (s.setCur p) := by
  simp only [step, hr, State.aloneStep, State.portStep, hj, State.fetch, hd]

/-! ## NCOEF -/

theorem hostMove_ncoef {m : HostMove} {s t : State} (h : hostMove m s = .next t) : t.ncoef = if m = .powerOn then 0 else s.ncoef := by
  rcases hostMove_cases h with ⟨rfl, rfl⟩ | ⟨hm, hmoved⟩
  · rfl
  · rw [if_neg hm]
    exact hmoved.ncoef

theorem computesCoefficients_setTicks (i : Instr) (s : State) (n : Nat) : computesCoefficients i (s.setTicks n) ↔ computesCoefficients i s := by
  cases i <;> exact Iff.rfl

/-- When a port's move ends a coefficient computation, as a step of the machine (R46, R131). -/
theorem PortStep.counts {s t : State} {p : Port} {n : Nat} {m : MoveTerms} (h : PortStep s p ((s.setTicks n).setCur p) m t) (hc : m.counts) :
    (∃ ch next, (s.portState p).job = some (.coefWrite ch [] next)) ∨
      s.ready = [.port p] ∧ (s.portState p).job = none ∧
        ∃ i rest, decode (s.portState p).fifo = .ok i rest ∧ computesCoefficients i (s.setCur p) := by
  cases h with
  | job hj =>
    obtain ⟨ch, next, rfl⟩ := hc
    exact .inl ⟨ch, next, hj⟩
  | error | begins => exact hc.elim
  | whole hr hj hd ht => exact .inr ⟨hr, hj, _, _, hd, (computesCoefficients_setTicks _ (s.setCur p) n).1 hc⟩

theorem step_ncoef {s t : State} (h : step s = .next t) :
    t.ncoef = s.ncoef ∨ (t.ncoef = 0 ∧ ∃ ms, s.host = .powerOn :: ms) ∨
    (t.ncoef = s.ncoef + 1 ∧ ∃ p, .port p ∈ s.ready ∧
      ((∃ ch next, (s.portState p).job = some (.coefWrite ch [] next)) ∨
       (s.ready = [.port p] ∧ (s.portState p).job = none ∧
         ∃ i rest, decode (s.portState p).fifo = .ok i rest ∧ computesCoefficients i (s.setCur p)))) := by
  rcases step_moves h with ⟨n, rfl⟩ | ⟨n, m, ms, hh, -, hm⟩ | ⟨n, p, m, hp, hm⟩
  · exact .inl rfl
  · have hn := hostMove_ncoef hm
    split_ifs at hn with hpow
    · exact .inr (.inl ⟨hn, ms, hpow ▸ hh⟩)
    · exact .inl hn
  · have hn := hm.portMove.ncoef
    by_cases hc : m.counts
    · exact .inr (.inr ⟨hn.1 hc, p, hp, hm.counts hc⟩)
    · exact .inl (hn.2 hc)

/-- A port that can move alone and ends a coefficient computation adds 1 (R46). -/
theorem step_alone_counts {s : State} {p : Port} (hr : s.ready = [.port p])
    (h : (∃ ch next, (s.portState p).job = some (.coefWrite ch [] next)) ∨
      (s.portState p).job = none ∧ ∃ i rest, decode (s.portState p).fifo = .ok i rest ∧ computesCoefficients i (s.setCur p)) :
    ∃ t, step s = .next t ∧ t.ncoef = s.ncoef + 1 := by
  rcases h with ⟨ch, next, hj⟩ | ⟨hj, i, rest, hd, hc⟩
  · exact ⟨_, step_alone_job hr hj, (stepJob_portMove _ (s.setCur p)).ncoef.1 ⟨ch, next, rfl⟩⟩
  · have he := exec_eq_issue i (s.setCur p)
    exact ⟨_, (step_alone_command hr hj hd).trans he, (exec_portMove he).ncoef.1 hc⟩

/-- Settles O9: `NCOEF` moves with the terms of the move (`MoveTerms.counts`), whichever form the move takes. -/
theorem ncoefCounts : Obligations.NcoefCounts :=
  ⟨fun _ _ _ h => (exec_portMove h).ncoef, fun i s => (startCommand_portMove i s).ncoef.2 s.firstTerms_not_counts,
    fun j s => (stepJob_portMove j s).ncoef, fun _ _ _ => hostMove_ncoef, fun _ _ => step_ncoef, fun _ _ => step_alone_counts,
    fun _ _ => ⟨rfl, rfl⟩⟩

/-! ## Port D (R38, R82) -/

theorem State.PortMove.keepsAudio {s t : State} {m : MoveTerms} (h : (s.setCur .D).PortMove m t) (hr : m.reads) (hc : ¬m.counts) : keepsAudio s t :=
  ⟨h.kernels hr, h.ncoef.2 hc, h.other (q := .R) nofun⟩

theorem not_computesCoefficients_of_portD {i : Instr} {s : State} (h : s.cur = .D) : ¬computesCoefficients i s := by
  intro hc
  cases i with
  | process | calcCoef => exact nomatch hc.1.symm.trans h
  | wrp | reset | eval | curve | rdcoef => exact hc

theorem exec_keepsAudio {i : Instr} {s t : State} (h : exec i (s.setCur .D) = .next t) : keepsAudio s t :=
  (exec_portMove h).keepsAudio rfl (not_computesCoefficients_of_portD rfl)

theorem startCommand_keepsAudio (i : Instr) (s : State) : keepsAudio s (startCommand i (s.setCur .D)) :=
  (startCommand_portMove i _).keepsAudio rfl (State.firstTerms_not_counts _)

theorem stepJob_keepsAudio {j : Job} (hj : j.readsOnly = true) (s : State) : keepsAudio s (stepJob j (s.setCur .D)) :=
  (stepJob_portMove j _).keepsAudio hj (Job.not_counts_of_readsOnly hj)

/-- A move of port D, however it takes up a command, keeps what its commands keep. -/
theorem portStep_keepsAudio {s t : State} {run : Instr → State → Host.Outcome State Fault Refusal}
    (hrun : ∀ i, run i (s.setCur .D) = .next t → keepsAudio s t) (hs : s.portD.readsOnly = true) (h : s.portStep .D run = .next t) :
    keepsAudio s t := by
  rcases State.portStep_cases h with ⟨j, hj, rfl⟩ | ⟨-, rfl | ⟨c, -, rfl⟩ | ⟨i, rest, -, hi⟩⟩
  · have hj' : s.portD.job = some j := hj
    rw [PortState.readsOnly, hj'] at hs
    exact stepJob_keepsAudio hs s
  · exact ⟨rfl, rfl, rfl⟩
  · exact ⟨rfl, rfl, rfl⟩
  · exact hrun i hi

/-- Settles O56: on port D the ground of every move is one on which it only reads (`MoveTerms.reads`). -/
theorem portDNeverTouchesAudio : Obligations.PortDNeverTouchesAudio := by
  refine fun s => ⟨fun i t => exec_keepsAudio, fun i => startCommand_keepsAudio i s, fun c => ⟨rfl, rfl, rfl⟩,
    fun j hj => stepJob_keepsAudio hj s, fun hs t h => ?_⟩
  rcases h with h | h
  · exact portStep_keepsAudio (fun i => exec_keepsAudio) hs h
  · refine portStep_keepsAudio (fun i hi => ?_) hs h
    cases hi
    exact startCommand_keepsAudio i s

end Sys2Proof.Machine
end

section
/-! PROOFS. What a PROCESS leaves when it completes (R150, R154, R159). -/

namespace Sys2Proof.Machine

/-! ## Written NaNs (R9) -/

theorem State.fresh64_writtenAs (s : State) (v : Dword) : writtenAs64 v (s.fresh64 v).1 := by
  refine ⟨fun h => by rw [s.fresh64_value v h], fun h => ?_⟩
  rw [s.fresh64_isNaN h]
  exact isQuietNaN64_quietNaN64 _

theorem State.freshCoefs_writtenAs (s : State) (c : Coefs) : writtenAs c (s.freshCoefs c).1 := by
  intro r
  cases r <;> exact State.fresh64_writtenAs _ _

/-! ## One kernel written (R33) -/

theorem State.set_kernel_self {s : State} {ch : BitVec 8} (hch : ch.toNat < s.nch) : s.kernels.set ch.toNat (s.kernel ch) = s.kernels := by
  rw [State.kernel_of_getElem? (List.getElem?_eq_getElem hch)]
  exact List.set_getElem_self hch

theorem State.kernel_of_set {s t : State} {ch : BitVec 8} {k : Kernel} (hch : ch.toNat < s.nch) (h : t.kernels = s.kernels.set ch.toNat k) :
    t.kernel ch = k :=
  State.kernel_of_getElem? (by rw [h]; exact List.getElem?_set_self hch)

theorem kernelsExcept_of_set {s t : State} {ch : BitVec 8} {k : Kernel} (h : t.kernels = s.kernels.set ch.toNat k) : kernelsExcept ch s t :=
  ⟨by rw [State.nch, h, List.length_set]; rfl, fun j hj => by rw [h, List.getElem?_set_ne hj.symm]⟩

/-! ## The recompute (R154) -/

/-- A recompute writes the coefficients, their valid bit and the cache of one channel (R131, R154). -/
theorem State.recompute_differs {s : State} {ch : BitVec 8} {f res : Dword} (hch : ch.toNat < s.nch)
    (h : cacheDiffers (s.kernel ch) f res = true) :
    (s.recompute ch f res).kernels = s.kernels.set ch.toNat { s.kernel ch with
      coef := (s.freshCoefs (coefFn s.cfg.expForm f res)).1, valid := true, lastF := f, lastR := res } := by
  obtain ⟨n, hn⟩ := s.freshCoefs_state (coefFn s.cfg.expForm f res)
  have hch' : ch.toNat < s.kernels.length := hch
  rw [State.recompute, if_pos h, State.writeCoef_eq, State.writeCoefRegs_eq, hn]
  simp [State.writeCache, State.validateCoef, State.setKernel, State.kernel, hch']

theorem State.recompute_agrees {s : State} {ch : BitVec 8} {f res : Dword} (h : cacheDiffers (s.kernel ch) f res = false) :
    s.recompute ch f res = s := by
  rw [State.recompute, h]
  rfl

theorem State.recompute_mem (s : State) (ch : BitVec 8) (f res : Dword) : (s.recompute ch f res).mem = s.mem := by
  obtain ⟨n, hn⟩ := s.freshCoefs_state (coefFn s.cfg.expForm f res)
  unfold State.recompute
  split_ifs
  · rw [State.writeCoef_eq, hn]
    rfl
  · rfl

/-! ## The sample loop (R155, R156) -/

/-- Two kernels with the same coefficients, valid bit and cache. -/
structure Kernel.SameCoefs (k k' : Kernel) : Prop where
  coef : k'.coef = k.coef
  valid : k'.valid = k.valid
  lastF : k'.lastF = k.lastF
  lastR : k'.lastR = k.lastR

/-- One sample shifts the filter state of its channel and writes its output word (R155). -/
theorem State.sample_writes (s : State) (ch : BitVec 8) (src dst : Nat) :
    ∃ x y w, (s.sample ch src dst).kernels = s.kernels.set ch.toNat ((s.kernel ch).shifted x y) ∧
      (s.sample ch src dst).mem = putWord s.mem dst w := by
  obtain ⟨n, x, y, -, -, h⟩ := s.sampleIn_shifts ch src
  have e : s.sample ch src dst = (s.sampleIn ch src).2.memWrite dst (s.sampleIn ch src).1 := rfl
  rw [e, h]
  exact ⟨x, y, _, rfl, rfl⟩

/-- The sample loop writes the filter state of its channel alone (R159). -/
theorem State.samples_kernels (n : Nat) {ch : BitVec 8} (src dst : Nat) {s : State} (hch : ch.toNat < s.nch) :
    ∃ k, (s.kernel ch).SameCoefs k ∧ (State.samples ch src dst n s).kernels = s.kernels.set ch.toNat k := by
  induction n generalizing src dst s with
  | zero => exact ⟨s.kernel ch, ⟨rfl, rfl, rfl, rfl⟩, (State.set_kernel_self hch).symm⟩
  | succ n ih =>
    obtain ⟨x, y, w, hk, -⟩ := s.sample_writes ch src dst
    obtain ⟨k, hsame, hk'⟩ := ih (src + 1) (dst + 1) (s := s.sample ch src dst) (by rwa [(s.sample_sameOutside ch src dst).nch])
    rw [State.kernel_of_set hch hk] at hsame
    rw [hk, List.set_set] at hk'
    exact ⟨k, ⟨hsame.coef, hsame.valid, hsame.lastF, hsame.lastR⟩, hk'⟩

/-- A word that is written stays written. -/
theorem memWord?_putWord_isSome {m : List Host.Cell} {a b : Nat} {w : Word} (h : (memWord? m b).isSome = true) :
    (memWord? (putWord m a w) b).isSome = true := by
  by_cases hb : b = a
  · rw [hb, memWord?_putWord_same]; rfl
  · rwa [memWord?_putWord_ne _ _ _ _ hb]

theorem State.samples_isSome (n : Nat) (ch : BitVec 8) (src dst b : Nat) (s : State)
    (h : (memWord? s.mem b).isSome = true ∨ dst ≤ b ∧ b < dst + n) :
    (memWord? (State.samples ch src dst n s).mem b).isSome = true := by
  induction n generalizing src dst s with
  | zero => exact h.resolve_right (by omega)
  | succ n ih =>
    obtain ⟨x, y, w, -, hm⟩ := s.sample_writes ch src dst
    refine ih (src + 1) (dst + 1) (s.sample ch src dst) ?_
    rw [hm]
    rcases h with h | h
    · exact .inl (memWord?_putWord_isSome h)
    · by_cases hb : b = dst
      · rw [hb, memWord?_putWord_same]; exact .inl rfl
      · exact .inr (by omega)

/-! ## PROCESS (R150) -/

/-- The state in which a PROCESS completes (R150). -/
def State.processed (ch : BitVec 8) (src dst n : Nat) (f res : Dword) (s : State) : State :=
  State.samples ch src dst n (s.recompute ch f res)

theorem exec_process {ch : BitVec 8} {sil : Bool} {src dst n : Word} {s : State} {f res : Dword} (hcur : s.cur = .R)
    (hch : ch.toNat < s.nch) (hn : 0 < n.toNat) (hsrc : src.toNat + n.toNat ≤ s.cfg.memWords) (hdst : dst.toNat + n.toNat ≤ s.cfg.memWords)
    (hp : preamble s.params = .ok (f, res)) :
    exec (.process ch sil src dst n) s = .next ((s.processed ch src.toNat dst.toNat n.toNat f res).complete 4) := by
  have hf : headerFault s.cur s.nch (Instr.process ch sil src dst n).header = none := headerFault_none nofun (.inl hcur) hch
  have hr : commandRule (.process ch sil src dst n) s = .done (s.processed ch src.toNat dst.toNat n.toNat f res) := by
    simp [commandRule, processRule, hn.ne', State.inRange, hsrc, hdst, hp, State.processed]
  rw [exec_eq_issue, State.issue_done hf hr]
  rfl

theorem State.processed_sameOutside (ch : BitVec 8) (src dst n : Nat) (f res : Dword) (s : State) :
    s.sameOutside (s.processed ch src dst n f res) :=
  (s.recompute_sameOutside ch f res).trans (State.samples_sameOutside n ch src dst _)

/-- What a command's work leaves outside, it leaves when it completes. -/
theorem keepsOthers_complete {s u : State} (h : s.sameOutside u) (len : Nat) : keepsOthers s (u.complete len) := by
  refine ⟨by simp [h.cfg], by simp [h.cur], by simp [h.host], by simp [h.returned], by simp [h.errorsSeen], by simp [h.ticks], fun q hq => ?_⟩
  rw [State.portState_complete_ne _ _ _ (h.cur ▸ hq)]
  cases q
  · exact h.portR
  · exact h.portD

/-- What a recompute leaves in its channel: the coefficients computed, valid, and `(f, res)` in the cache (R131, R154). -/
structure Kernel.Recomputed (form : ExpForm) (f res : Dword) (k : Kernel) : Prop where
  coef : writtenAs (coefFn form f res) k.coef
  valid : k.valid = true
  lastF : k.lastF = f
  lastR : k.lastR = res

/-- A PROCESS that recomputes leaves its channel recomputed, and writes no other (R154). -/
theorem State.processed_differs {s : State} {ch : BitVec 8} {f res : Dword} (hch : ch.toNat < s.nch)
    (hc : cacheDiffers (s.kernel ch) f res = true) (src dst n : Nat) :
    ∃ k : Kernel, k.Recomputed s.cfg.expForm f res ∧ (s.processed ch src dst n f res).kernels = s.kernels.set ch.toNat k := by
  have hk := State.recompute_differs hch hc
  obtain ⟨k, hsame, hk'⟩ := State.samples_kernels n src dst (s := s.recompute ch f res) (by rwa [(s.recompute_sameOutside ch f res).nch])
  rw [State.kernel_of_set hch hk] at hsame
  rw [hk, List.set_set] at hk'
  exact ⟨k, ⟨hsame.coef ▸ s.freshCoefs_writtenAs _, hsame.valid, hsame.lastF, hsame.lastR⟩, hk'⟩

/-- A PROCESS that does not recompute writes the filter state of its channel alone (R154, R159). -/
theorem State.processed_agrees {s : State} {ch : BitVec 8} {f res : Dword} (hch : ch.toNat < s.nch)
    (hc : cacheDiffers (s.kernel ch) f res = false) (src dst n : Nat) :
    ∃ k, (s.kernel ch).SameCoefs k ∧ (s.processed ch src dst n f res).kernels = s.kernels.set ch.toNat k := by
  rw [State.processed, State.recompute_agrees hc]
  exact State.samples_kernels n src dst hch

theorem State.processed_ncoef (ch : BitVec 8) (src dst n : Nat) (f res : Dword) (s : State) :
    (s.processed ch src dst n f res).ncoef = if cacheDiffers (s.kernel ch) f res then s.ncoef + 1 else s.ncoef :=
  (State.samples_memory n ch src dst _).1.trans (s.recompute_ncoef ch f res)

theorem State.processed_memory (ch : BitVec 8) (src dst n : Nat) (f res : Dword) (s : State) :
    memoryExcept dst n s (s.processed ch src dst n f res) := by
  intro y hy
  rw [State.processed, (State.samples_memory n ch src dst _).2 y (by omega), State.recompute_mem]

theorem agrees_eq_not_cacheDiffers (k : Kernel) (f res : Dword) : (eq64 f k.lastF && eq64 res k.lastR) = !cacheDiffers k f res := by
  simp [cacheDiffers]

/-- Settles O46: `exec_process` gives the state; what it leaves of the channel turns on `cacheDiffers`. -/
theorem processCompletes : Obligations.ProcessCompletes := by
  intro ch sil src dst n s hcur hch hn hsrc hdst hacc
  have hp := preamble_of_accepted hacc
  generalize normalizedFreq _ _ = f, clampRes _ = res at hp
  have hout := s.processed_sameOutside ch src.toNat dst.toNat n.toNat f res
  have hmem := s.processed_memory ch src.toNat dst.toNat n.toNat f res
  have hncoef := s.processed_ncoef ch src.toNat dst.toNat n.toNat f res
  have hsome : ∀ i < n.toNat, (memWord? (s.processed ch src.toNat dst.toNat n.toNat f res).mem (dst.toNat + i)).isSome = true :=
    fun i hi => State.samples_isSome _ ch _ _ _ _ (.inr (by omega))
  have hcompleted : completed 4 s ((s.processed ch src.toNat dst.toNat n.toNat f res).complete 4) :=
    completed_of_complete 4 hout.cur (by cases s.cur; exacts [hout.portR, hout.portD]) hout.unseen
  refine ⟨f, res, _, hp, exec_process hcur hch hn hsrc hdst hp, hcompleted, keepsOthers_complete hout 4, ?_⟩
  rw [State.complete_params, State.complete_kernel, State.complete_mem, State.complete_ncoef, memoryExcept, State.complete_mem,
    agrees_eq_not_cacheDiffers, hncoef]
  cases hc : cacheDiffers (s.kernel ch) f res with
  | true =>
    obtain ⟨k, hrec, hk⟩ := State.processed_differs hch hc src.toNat dst.toNat n.toNat
    rw [State.kernel_of_set hch hk]
    exact ⟨kernelsExcept_of_set ((State.complete_kernels _ 4).trans hk), hout.params, fun _ => hrec.valid, hmem, hsome,
      hrec.coef, hrec.valid, hrec.lastF, hrec.lastR, rfl⟩
  | false =>
    obtain ⟨k, hsame, hk⟩ := State.processed_agrees hch hc src.toNat dst.toNat n.toNat
    rw [State.kernel_of_set hch hk]
    exact ⟨kernelsExcept_of_set ((State.complete_kernels _ 4).trans hk), hout.params,
      fun hok => hsame.valid.trans (valid_of_cacheDiffers (State.forall_kernel hok hch) hp hc), hmem, hsome,
      hsame.coef, hsame.valid, hsame.lastF, hsame.lastR, rfl⟩

end Sys2Proof.Machine
end

section
/-! PROOFS. The host's registers (R42–R49), and the state after reset (R49, R240). -/

namespace Sys2Proof.Machine

/-! ## STATUS (R44) -/

/-- Settles O19: neither case meets the two conditions of the clear. -/
theorem statusWriteWithoutEffect : Obligations.StatusWriteWithoutEffect := by
  intro s p w h
  have hw : s.writeStatus p w = s := by
    rw [State.writeStatus, if_neg]
    rcases h with h | h <;> rw [h]
    · rw [Bool.and_false]; decide
    · rw [Bool.false_and]; decide
  cases p <;> exact congrArg Host.Outcome.next hw

theorem PortState.idle_iff (ps : PortState) : ps.idle = true ↔ ps.err = false ∧ ps.job = none ∧ ps.fifo = [] := by
  simp [PortState.idle, and_assoc]

/-- The fields of `STATUS_P`, whatever stands in them (R44). -/
theorem status_fields (code : BitVec 4) (idle err : Bool) :
    let v : Word := 0#24 ++ code ++ 0#2 ++ BitVec.ofBool idle ++ BitVec.ofBool err
    v.getLsbD 0 = err ∧ v.getLsbD 1 = idle ∧ v.extractLsb' 2 2 = 0 ∧ v.extractLsb' 4 4 = code ∧ v.extractLsb' 8 24 = 0 := by
  revert code idle err
  decide

theorem State.seesStatus_records (s : State) (p : Port) :
    s.seesStatus p = (s.setUnseen (if (s.portState p).err = false ∧ (s.portState p).job = none ∧ (s.portState p).fifo = [] then
      s.unseen.filter (fun e => decide (e.1 ≠ p)) else s.unseen)).setErrorsSeen
        (if (s.portState p).err = true then s.errorsSeen.insert p else s.errorsSeen) := by
  simp only [State.seesStatus, ← PortState.idle_iff]
  split_ifs with hi he
  · exact absurd he (by simp [((PortState.idle_iff _).1 hi).1])
  all_goals rfl

/-- Settles O22: the bits of `STATUS_P` are its fields', and a read of it leaves the records of `seesStatus`. -/
theorem statusLayout : Obligations.StatusLayout := by
  refine ⟨fun ps => ?_, fun s p => ?_, rfl⟩
  · rw [← PortState.idle_iff]
    obtain ⟨h0, h1, h2, h4, h8⟩ := status_fields ps.errCode.bits ps.idle ps.err
    exact ⟨h0, by rw [← h1]; rfl, h2, h4, h8⟩
  · cases p <;> exact congrArg Host.Outcome.next (State.seesStatus_records _ _)

/-! ## CMD (R43) -/

/-- Settles O21: a push waits exactly where the FIFO is full (`fifoFull`). -/
theorem pushAppendsOrDiscards : Obligations.PushAppendsOrDiscards := by
  intro s p w ms hh
  have hstep : hostStep s = .next ((s.setHost ms).push p w) := by
    rw [hostStep_cons hh]
    cases p <;> rfl
  have hfull : s.hostReady = !s.fifoFull p := by
    rw [State.hostReady, hh]
    cases p <;> simp [State.hostStalled, commandOffset, registerAccess]
  rw [State.mem_ready_host, hfull, hstep]
  refine ⟨fun he hroom => ?_, fun he => ?_, fun he hno => ?_, by cases p <;> rfl⟩
  · simp [State.fifoFull, State.push, he, hroom]
  · simp [State.fifoFull, State.push, he]
  · simp [State.fifoFull, he, hno]

/-! ## The other registers (R45, R47, R48) -/

/-- Settles O23: the register map names these registers and takes no write at their offsets. -/
theorem pointerRegistersRead : Obligations.PointerRegistersRead :=
  fun _ _ => ⟨rfl, rfl, rfl, rfl, rfl, rfl, rfl, rfl⟩

/-- A number of at most 9 bits in bits 8:0 of a word (R47). -/
theorem ofNat_nine_bits {n : Nat} (hn : n < 2 ^ 9) :
    ((BitVec.ofNat 32 (n % 2 ^ 9)).extractLsb' 0 9).toNat = n ∧ (BitVec.ofNat 32 (n % 2 ^ 9)).extractLsb' 9 23 = 0 := by
  constructor
  · rw [BitVec.extractLsb'_toNat, BitVec.toNat_ofNat, Nat.shiftRight_zero]
    omega
  · apply BitVec.eq_of_toNat_eq
    rw [BitVec.extractLsb'_toNat, BitVec.toNat_ofNat, Nat.shiftRight_eq_div_pow]
    simp only [BitVec.ofNat_eq_ofNat, BitVec.toNat_ofNat]
    omega

/-- Settles O24: `NCH` needs no more than the 9 bits of its field, and `MEM_WORDS` − 1 no more than 32. -/
theorem configurationRegistersRead : Obligations.ConfigurationRegistersRead := by
  intro s w hn h1 h2
  have hmem : (BitVec.ofNat 32 (s.cfg.memWords - 1)).toNat = s.cfg.memWords - 1 := by
    rw [BitVec.toNat_ofNat]
    omega
  exact ⟨⟨_, rfl, ofNat_nine_bits (n := s.nch) (by omega)⟩, ⟨_, rfl, hmem⟩, rfl, rfl⟩

/-- A read of a reserved offset returns 0 and shows the host nothing, and a write to one is ignored (R48). -/
theorem reserved_register {off : Nat} (h : 0x2C ≤ off) (s : State) (w : Word) :
    s.hostRegister off = 0 ∧ s.hostSees off = s ∧ s.writeHostRegister off w = s := by
  refine ⟨?_, ?_, ?_⟩
  · unfold State.hostRegister
    split
    case h_10 => rfl
    all_goals omega
  · unfold State.hostSees
    split
    case h_5 => rfl
    all_goals omega
  · unfold State.writeHostRegister
    split
    case h_5 => rfl
    all_goals omega

/-- A register read changes only the records of what the host has seen (R48, R249, R252). -/
theorem State.hostSees_records (off : Nat) (s : State) : ∃ u e, s.hostSees off = (s.setUnseen u).setErrorsSeen e := by
  rcases s.hostSees_eq off with h | ⟨p, h | h⟩
  · exact ⟨s.unseen, s.errorsSeen, h⟩
  · exact ⟨(s.seen p).unseen, s.errorsSeen, h⟩
  · exact ⟨s.unseen, (s.sawError p).errorsSeen, h⟩

theorem registerAccess_iff (off size : Nat) : registerAccess off size = true ↔ size = 4 ∧ off % 4 = 0 ∧ off ≤ 0xFC := by
  simp [registerAccess, and_assoc]

/-- Settles O25: `registerAccess` is the condition of R48, and no offset from 0x2C up is in the register map. -/
theorem registerAccessesOfR48 : Obligations.RegisterAccessesOfR48 := by
  intro s off size w
  rw [← registerAccess_iff]
  refine ⟨fun h => ?_, fun h => ?_⟩
  · simp only [hostMove, if_neg h, and_self]
  · simp only [hostMove, if_pos h]
    refine ⟨?_, fun hoff => by rw [(reserved_register hoff s w).2.2]⟩
    by_cases hoff : 0x2C ≤ off
    · obtain ⟨hv, -, -⟩ := reserved_register hoff s w
      obtain ⟨-, hsees, -⟩ := reserved_register hoff (s.answer (s.hostRegister off)) w
      rw [hsees]
      exact ⟨_, s.unseen, s.errorsSeen, rfl, fun _ => ⟨hv, rfl, rfl⟩⟩
    · obtain ⟨u, e, hs⟩ := (s.answer (s.hostRegister off)).hostSees_records off
      exact ⟨_, u, e, congrArg _ hs, fun h => absurd h hoff⟩

/-! ## Reset (R49, R240) -/

theorem PortState.created_status : PortState.created.status = 0x00000002#32 := by decide

/-- Settles O27: every kernel and port after it is the one R49 gives. -/
theorem powerOnResetState : Obligations.PowerOnResetState := by
  refine fun s => ⟨s.powerOnReset, rfl, rfl, List.length_replicate, rfl, rfl, fun k hk => ?_, rfl, rfl, rfl, fun p => ?_⟩
  · rw [List.eq_of_mem_replicate (show k ∈ List.replicate s.nch Kernel.created from hk)]
    exact ⟨rfl, rfl, rfl, rfl, rfl, rfl, rfl⟩
  · cases p <;> exact ⟨rfl, rfl, rfl, rfl, rfl, rfl, PortState.created_status⟩

theorem mem_reset_kernels {k : Kernel} (h : k ∈ State.reset.kernels) : k = Kernel.created := List.eq_of_mem_replicate h

/-- Settles O32: `State.reset` has no word of `MEM`, and its kernels and ports are the ones R49 gives. -/
theorem resetMeetsInvariants : Obligations.ResetMeetsInvariants := by
  have hnch : State.reset.nch = Config.nchLessOne.toNat + 1 := List.length_replicate
  have hmem : State.reset.cfg.memWords = Config.memWordsLessOne.toNat + 1 := rfl
  have hcoef : State.reset.coefficientsOk :=
    ⟨fun k hk => mem_reset_kernels hk ▸ by decide, fun p j hj => by cases p <;> cases hj⟩
  refine ⟨rfl, fun _ _ _ => rfl, rfl, rfl, rfl, hcoef, fun k hk => mem_reset_kernels hk ▸ Kernel.imagesOk_created,
    Nat.zero_le _, Nat.zero_le _, Nat.le_add_left 5 _, ?_, ?_, ?_, ?_⟩ <;> omega

end Sys2Proof.Machine
end


section
/-! PROOFS. Every change of `MEM` is a run of whole words written (R71, R76), so its form is kept by every step (O31). -/

namespace Sys2Proof.Machine

/-! ## Whole words written -/

/-- `m'` is `m` after some words were written, one after another (R71). -/
inductive Memory.Written (m : List Host.Cell) : List Host.Cell → Prop
  | refl : Written m m
  | word {m' : List Host.Cell} (h : Written m m') (a : Nat) (w : Word) : Written m (putWord m' a w)

theorem Memory.Written.of_eq {m m' : List Host.Cell} (h : m' = m) : Memory.Written m m' := h ▸ .refl

theorem Memory.Written.trans {m m' m'' : List Host.Cell} (h : Memory.Written m m') (g : Memory.Written m' m'') : Memory.Written m m'' := by
  induction g with
  | refl => exact h
  | word _ a w ih => exact ih.word a w

/-- A word write leaves whole words only: the four bytes of its word are there, and the others are untouched. -/
theorem wholeWords_putWord {m : List Host.Cell} (h : wholeWords m) (a : Nat) (w : Word) : wholeWords (putWord m a w) := by
  intro b k hk
  by_cases hb : b = a
  · have h0 := memByte?_putWord_same m a 0 w (by decide)
    rw [Nat.add_zero] at h0
    rw [hb, memByte?_putWord_same m a k w hk, h0]
    rfl
  · rw [memByte?_putWord_ne m a _ w (by omega), memByte?_putWord_ne m a _ w (by omega)]
    exact h b k hk

theorem Memory.Written.wf {m m' : List Host.Cell} (h : Memory.Written m m') (hm : Memory.wf m = true) : Memory.wf m' = true := by
  induction h with
  | refl => exact hm
  | word _ a w ih => exact Memory.wf_putWord _ a w ih

theorem Memory.Written.wholeWords {m m' : List Host.Cell} (h : Memory.Written m m') (hm : wholeWords m) : wholeWords m' := by
  induction h with
  | refl => exact hm
  | word _ a w ih => exact wholeWords_putWord ih a w

/-! ## What the operations write -/

/-- Nothing but words is written to `MEM` from `s` to `t`. -/
def State.writesWords (s t : State) : Prop := Memory.Written s.mem t.mem

theorem State.writesWords.refl (s : State) : s.writesWords s := Memory.Written.refl

theorem State.writesWords.of_eq {s t : State} (h : t.mem = s.mem) : s.writesWords t := Memory.Written.of_eq h

theorem State.writesWords.trans {s t u : State} (h : s.writesWords t) (g : t.writesWords u) : s.writesWords u :=
  Memory.Written.trans h g

theorem State.writesWords.memWrite (s : State) (a : Nat) (w : Word) : s.writesWords (s.memWrite a w) := Memory.Written.refl.word a w

theorem State.writesWords.memWrites (ws : List Word) (a : Nat) (s : State) : s.writesWords (State.memWrites a ws s) := by
  induction ws generalizing a s with
  | nil => exact .refl s
  | cons w ws ih => exact (State.writesWords.memWrite s a w).trans (ih (a + 1) _)

theorem State.memRead_mem (s : State) (a : Nat) : (s.memRead a).2.mem = s.mem := by rw [State.memRead_state, State.setDraws_mem]

theorem State.sampleIn_mem (s : State) (ch : BitVec 8) (a : Nat) : (s.sampleIn ch a).2.mem = s.mem := by
  obtain ⟨n, x, y, h⟩ := s.sampleIn_state ch a
  rw [h]
  rfl

theorem State.freshCoefs_mem (s : State) (c : Coefs) : (s.freshCoefs c).2.mem = s.mem := by
  obtain ⟨n, h⟩ := s.freshCoefs_state c
  rw [h, State.setDraws_mem]

theorem State.writesWords.samples (n : Nat) (ch : BitVec 8) (src dst : Nat) (s : State) : s.writesWords (State.samples ch src dst n s) := by
  induction n generalizing src dst s with
  | zero => exact .refl s
  | succ n ih =>
    obtain ⟨x, y, w, -, hm⟩ := s.sample_writes ch src dst
    have hsample : s.writesWords (s.sample ch src dst) := by
      rw [State.writesWords, hm]
      exact .word .refl dst w
    exact hsample.trans (ih (src + 1) (dst + 1) _)

theorem writeMagnitude_writesWords (c : Coefs) (rate freq : Word) (dst : Nat) (s : State) :
    (writeMagnitude c rate freq dst s).Leaves s.writesWords := by
  rcases writeMagnitude_cases c rate freq dst s with ⟨-, h⟩ | ⟨m, -, h⟩ <;> rw [h]
  · exact ⟨by decide, .refl s⟩
  · rw [State.fresh32_state]
    exact .memWrite (s.setDraws _) dst _

theorem curveEntry_writesWords (ch : BitVec 8) (a : Nat) (s : State) : (curveEntry ch a s).Leaves s.writesWords := by
  obtain ⟨n, ⟨-, h⟩ | ⟨-, -, h⟩ | ⟨m, -, -, h⟩⟩ := curveEntry_cases ch a s <;> rw [h]
  · exact ⟨by decide, .of_eq rfl⟩
  · exact ⟨by decide, .of_eq rfl⟩
  · rw [State.fresh32_state]
    exact .memWrite ((s.setDraws n).setDraws _) (a + 1) _

theorem curveEntries_writesWords (n : Nat) (ch : BitVec 8) (a : Nat) (s : State) : (curveEntries ch a n s).Leaves s.writesWords := by
  induction n generalizing a s with
  | zero => exact .refl s
  | succ n ih =>
    have hentry := curveEntry_writesWords ch a s
    rw [curveEntries]
    cases h : curveEntry ch a s with
    | failed c t => rwa [h] at hentry
    | done t =>
      rw [h] at hentry
      exact (ih (a + 2) t).imp fun u hu => hentry.trans hu

/-! ## What a command writes -/

theorem processRule_writesWords (ch : BitVec 8) (src dst n : Nat) (s : State) : (processRule ch src dst n s).Leaves s.writesWords := by
  unfold processRule
  split_ifs
  · exact .refl s
  · exact ⟨by decide, .refl s⟩
  · cases hp : preamble s.params with
    | error c => exact ⟨preamble_error hp, .refl s⟩
    | ok a => exact (State.writesWords.of_eq (s.recompute_mem ch a.1 a.2)).trans (.samples n ch src dst _)

theorem calcRule_writesWords (ch : BitVec 8) (f res : Dword) (s : State) : (calcRule ch f res s).Leaves s.writesWords := by
  unfold calcRule
  split_ifs
  · exact .of_eq (s.freshCoefs_mem _)
  · exact ⟨by decide, .refl s⟩

theorem evalRule_writesWords (ch : BitVec 8) (freq : Word) (dst : Nat) (s : State) : (evalRule ch freq dst s).Leaves s.writesWords := by
  unfold evalRule
  split_ifs
  case neg => exact writeMagnitude_writesWords _ _ _ _ s
  all_goals exact ⟨by decide, .refl s⟩

theorem curveRule_writesWords (ch : BitVec 8) (a n : Nat) (s : State) : (curveRule ch a n s).Leaves s.writesWords := by
  unfold curveRule
  split_ifs
  case pos => exact .refl s
  case neg => exact curveEntries_writesWords n ch a s
  all_goals exact ⟨by decide, .refl s⟩

theorem rdcoefRule_writesWords (ch : BitVec 8) (dst : Nat) (s : State) : (rdcoefRule ch dst s).Leaves s.writesWords := by
  unfold rdcoefRule
  split_ifs
  case neg => exact .memWrites _ dst s
  all_goals exact ⟨by decide, .refl s⟩

/-- However the rule of a command ends, it has written nothing but words (R76). -/
theorem commandRule_writesWords (i : Instr) (s : State) : (commandRule i s).Leaves s.writesWords := by
  cases i with
  | wrp sel value => exact .of_eq rfl
  | process ch sil src dst n => exact processRule_writesWords ch _ _ _ s
  | reset ch => exact .of_eq rfl
  | calcCoef ch f res => exact calcRule_writesWords ch f res s
  | eval ch freq dst => exact evalRule_writesWords ch freq _ s
  | curve ch a n => exact curveRule_writesWords ch _ _ s
  | rdcoef ch dst => exact rdcoefRule_writesWords ch _ s

theorem exec_writesWords {i : Instr} {s t : State} (h : exec i s = .next t) : s.writesWords t := by
  have hrule := commandRule_writesWords i s
  rcases exec_cases h with ⟨c, -, rfl⟩ | ⟨-, c, u, hr, rfl⟩ | ⟨-, u, hr, rfl⟩
  · exact .of_eq (s.raise_mem c)
  · rw [hr] at hrule
    exact hrule.2.trans (.of_eq (u.raise_mem c))
  · rw [hr] at hrule
    exact State.writesWords.trans hrule (.of_eq (u.complete_mem i.len))

/-! ## What an atomic step writes (R81) -/

@[simp] theorem State.setJob_mem (s : State) (j : Job) : (s.setJob j).mem = s.mem := by simp [State.setJob]

theorem State.beginCoefWrite_mem (ch : BitVec 8) (f res : Dword) (next : AfterCoef) (s : State) :
    (s.beginCoefWrite ch f res next).mem = s.mem :=
  (State.setJob_mem _ _).trans (s.freshCoefs_mem _)

/-- The first atomic step of a command writes no word (R81). -/
theorem startCommand_mem (i : Instr) (s : State) : (startCommand i s).mem = s.mem := by
  unfold startCommand
  cases headerFault s.cur s.nch i.header with
  | some c => exact s.raise_mem c
  | none =>
    cases i with
    | wrp sel value => exact State.complete_mem _ 2
    | process ch sil src dst n =>
      simp only [startProcess]
      split_ifs
      · exact s.complete_mem 4
      · exact s.raise_mem _
      · cases preamble s.params with
        | error c => exact s.raise_mem c
        | ok a =>
          simp only
          split_ifs
          · exact s.beginCoefWrite_mem ch _ _ _
          · exact s.setJob_mem _
    | reset ch => exact State.complete_mem _ 1
    | calcCoef ch f res =>
      simp only [startCalc]
      split_ifs
      · exact s.beginCoefWrite_mem ch _ _ _
      · exact s.raise_mem _
    | eval ch freq dst => simp only [startEval]; split_ifs <;> simp
    | curve ch a n => simp only [startCurve]; split_ifs <;> simp
    | rdcoef ch dst => simp only [startRdcoef]; split_ifs <;> simp

theorem stepMagnitude_writesWords (ch : BitVec 8) (got : Coefs) (rate freq : Word) (next : AfterMag) (s : State) :
    s.writesWords (stepMagnitude ch got rate freq next s) := by
  cases next with
  | finish dst =>
    have hw := writeMagnitude_writesWords got rate freq dst s
    cases h : writeMagnitude got rate freq dst s <;> rw [h] at hw <;> simp only [stepMagnitude, h]
    case failed c u => exact hw.2.trans (.of_eq (u.raise_mem c))
    case done u => exact State.writesWords.trans hw (.of_eq (u.complete_mem 3))
  | entry a left =>
    have hw := writeMagnitude_writesWords got rate freq (a + 1) s
    cases h : writeMagnitude got rate freq (a + 1) s <;> rw [h] at hw <;> simp only [stepMagnitude, h]
    case failed c u => exact hw.2.trans (.of_eq (u.raise_mem c))
    case done u =>
      refine State.writesWords.trans hw ?_
      split_ifs
      · exact .of_eq (u.complete_mem 3)
      · exact .of_eq (u.setJob_mem _)

theorem stepCoefRead_mem (ch : BitVec 8) (r : CoefReg) (todo : List CoefReg) (got : Coefs) (s : State) :
    (stepCoefRead ch (r :: todo) got s).2.2.mem = s.mem := by
  obtain ⟨k, q, -, h⟩ := stepCoefRead_eq ch r todo got s
  rw [h, State.setTicks_mem]

/-- A later atomic step of a command writes nothing but words (R76). -/
theorem stepJob_writesWords (j : Job) (s : State) : s.writesWords (stepJob j s) := by
  cases j with
  | coefWrite ch todo next =>
    cases todo with
    | nil => cases next <;> exact .of_eq (by simp [stepJob, stepCoefValid])
    | cons p todo =>
      obtain ⟨k, r, v, -, h⟩ := stepCoefWrite_eq ch p todo next s
      exact .of_eq (by simp [stepJob, h])
  | sampleIn ch src dst left => exact .of_eq ((State.setJob_mem _ _).trans (s.sampleIn_mem ch src))
  | sampleOut ch src dst left out =>
    refine (State.writesWords.memWrite s dst out).trans ?_
    simp only [stepJob]
    split_ifs
    · exact .of_eq (State.complete_mem _ 4)
    · exact .of_eq (State.setJob_mem _ _)
  | evalValid ch dst rate freq => exact .of_eq (by simp only [stepJob]; split_ifs <;> simp)
  | curveValid ch a left => exact .of_eq (by simp only [stepJob]; split_ifs <;> simp)
  | curveIn ch a left => exact .of_eq ((State.setJob_mem _ _).trans (s.memRead_mem a))
  | curveRate ch a left freq => exact .of_eq (by simp only [stepJob]; split_ifs <;> simp)
  | magRead ch todo got rate freq next =>
    cases todo with
    | nil => exact stepMagnitude_writesWords ch got rate freq next s
    | cons r todo => exact .of_eq ((State.setJob_mem _ _).trans (stepCoefRead_mem ch r todo got s))
  | rdRead ch todo got dst =>
    cases todo with
    | nil => exact .of_eq (s.setJob_mem _)
    | cons r todo => exact .of_eq ((State.setJob_mem _ _).trans (stepCoefRead_mem ch r todo got s))
  | rdWrite dst words =>
    cases words with
    | nil => exact .of_eq (s.complete_mem 2)
    | cons w ws =>
      refine (State.writesWords.memWrite s dst w).trans ?_
      simp only [stepJob]
      split_ifs
      · exact .of_eq (State.complete_mem _ 2)
      · exact .of_eq (State.setJob_mem _ _)

/-! ## What a step writes -/

theorem PortStep.writesWords {s u t : State} {p : Port} {m : MoveTerms} (h : PortStep s p u m t) : u.writesWords t := by
  cases h with
  | job => exact stepJob_writesWords _ u
  | error => exact .of_eq (u.raise_mem _)
  | begins i => exact .of_eq (startCommand_mem i u)
  | whole _ _ _ ht => exact exec_writesWords ht

theorem State.writeHostRegister_mem (off : Nat) (w : Word) (s : State) : (s.writeHostRegister off w).mem = s.mem := by
  have hpush (p : Port) : (s.push p w).mem = s.mem := by simp only [State.push]; split_ifs <;> simp
  have hclear (p : Port) : (s.writeStatus p w).mem = s.mem := by simp only [State.writeStatus, State.clear]; split_ifs <;> simp
  unfold State.writeHostRegister
  split
  · exact hpush .R
  · exact hpush .D
  · exact hclear .R
  · exact hclear .D
  · rfl

theorem State.hostSees_mem (off : Nat) (s : State) : (s.hostSees off).mem = s.mem := by
  obtain ⟨u, e, h⟩ := s.hostSees_records off
  rw [h]
  rfl

/-- A host move writes whole words only (R71, R75), and power-on reset none (R240). -/
theorem hostMove_writesWords {m : HostMove} {s t : State} (h : hostMove m s = .next t) : s.writesWords t := by
  cases m with
  | powerOn => cases h; exact .of_eq rfl
  | regWrite off size w =>
    simp only [hostMove] at h
    split_ifs at h
    cases h
    exact .of_eq (s.writeHostRegister_mem off w)
  | regRead off size =>
    simp only [hostMove] at h
    split_ifs at h
    cases h
    exact .of_eq ((s.answer _).hostSees_mem off)
  | memWrite off size w =>
    simp only [hostMove] at h
    split_ifs at h
    cases h
    exact .memWrite s _ w
  | memRead off size =>
    simp only [hostMove] at h
    split_ifs at h
    cases h
    exact .of_eq (s.memRead_mem _)

theorem step_writesWords {s t : State} (h : step s = .next t) : s.writesWords t := by
  rcases step_moves h with ⟨n, rfl⟩ | ⟨n, m, ms, -, -, hm⟩ | ⟨n, p, m, -, hm⟩
  · exact .of_eq rfl
  · exact .trans (t := (s.setTicks n).setHost ms) (.of_eq rfl) (hostMove_writesWords hm)
  · exact .trans (t := (s.setTicks n).setCur p) (.of_eq rfl) hm.writesWords

/-- Settles O31: a step writes nothing but whole words, and each word written keeps both forms. -/
theorem memoryFormInvariant : Obligations.MemoryFormInvariant :=
  fun _ _ hwf hwhole h => ⟨(step_writesWords h).wf hwf, (step_writesWords h).wholeWords hwhole⟩

end Sys2Proof.Machine
end


section
/-! PROOFS. What a step runs (R79–R81, R112), and the steps of coefficient writes and reads (R82, R131, R136, R184). -/

namespace Sys2Proof.Machine

/-! ## The step of one port alone (R79, R112) -/

/-- Settles O8: `step_alone_command` and `step_alone_job` are its two cases. -/
theorem stepRunsDecodedCommand : Obligations.StepRunsDecodedCommand :=
  fun _ _ hr => ⟨fun _ _ hj hd => step_alone_command hr hj hd, fun _ hj => step_alone_job hr hj⟩

/-! ## The step of one agent among several (R80, R81) -/

/-- Among several agents that can move a free choice picks the one that makes an atomic step (R80). -/
theorem step_shared {s : State} (h : 2 ≤ s.ready.length) :
    ∃ a ∈ s.ready, s.ready[Config.pick s.ticks % s.ready.length]? = some a ∧ step s = (s.setTicks (s.ticks + 1)).sharedStep a := by
  obtain ⟨a, b, as, hr⟩ : ∃ a b as, s.ready = a :: b :: as := by
    match hr : s.ready with
    | [] | [_] => simp [hr] at h
    | a :: b :: as => exact ⟨a, b, as, rfl⟩
  have hl : Config.pick s.ticks % s.ready.length < s.ready.length := Nat.mod_lt _ (by omega)
  refine ⟨_, List.getElem_mem hl, List.getElem?_eq_getElem hl, ?_⟩
  simp only [hr] at hl
  simp only [step, hr, State.chooseAgent, State.choose, List.getElem?_eq_getElem hl, Option.getD_some]

/-- What a port that can move and has no command in progress finds in its FIFO (R112, R113). -/
theorem State.fetch_of_ready {s : State} {p : Port} (h : s.portReady p = true) (hj : (s.portState p).job = none) :
    (∃ c, s.fetch p = .error c) ∨ ∃ i, s.fetch p = .command i := by
  rw [State.portReady, hj, Bool.and_eq_true] at h
  obtain ⟨-, h⟩ := h
  cases hf : s.fetch p with
  | nothing | wait => simp [hf] at h
  | error c => exact .inl ⟨c, rfl⟩
  | command i => exact .inr ⟨i, rfl⟩

theorem State.sharedStep_job {s : State} {p : Port} {j : Job} (hj : (s.portState p).job = some j) :
    s.sharedStep (.port p) = .next (stepJob j (s.setCur p)) := by
  simp only [State.sharedStep, State.portStep, hj]

theorem State.sharedStep_error {s : State} {p : Port} {c : ErrCode} (hj : (s.portState p).job = none) (hf : s.fetch p = .error c) :
    s.sharedStep (.port p) = .next ((s.setCur p).raise c) := by
  simp only [State.sharedStep, State.portStep, hj, hf]

theorem State.sharedStep_command {s : State} {p : Port} {i : Instr} (hj : (s.portState p).job = none) (hf : s.fetch p = .command i) :
    s.sharedStep (.port p) = .next (startCommand i (s.setCur p)) := by
  simp only [State.sharedStep, State.portStep, hj, hf]

@[simp] theorem State.setTicks_fetch (s : State) (n : Nat) (p : Port) : (s.setTicks n).fetch p = s.fetch p := by
  simp only [State.fetch, State.setTicks_portState, State.setTicks_nch]

/-- Settles O10: `step_shared` picks the agent; a port that can move finds a command or an error. -/
theorem stepInterleavesAtomicSteps : Obligations.StepInterleavesAtomicSteps := by
  intro s h
  obtain ⟨a, hmem, hpick, hstep⟩ := step_shared h
  refine ⟨a, hpick, ?_⟩
  cases a with
  | host => exact hstep
  | port p =>
    rw [State.mem_ready_port] at hmem
    have hport := s.setTicks_portState (s.ticks + 1) p
    have hfetch := s.setTicks_fetch (s.ticks + 1) p
    simp only [hstep]
    cases hj : (s.portState p).job with
    | some j => exact State.sharedStep_job (hport ▸ hj)
    | none =>
      have hready := State.fetch_of_ready hmem hj
      rw [← hport] at hj
      cases hd : decode (s.portState p).fifo with
      | empty => simp [State.fetch, hd] at hready
      | bad e => exact State.sharedStep_error hj (hfetch.trans (by simp only [State.fetch, hd]))
      | ok i rest => exact State.sharedStep_command hj (hfetch.trans (by simp only [State.fetch, hd]))
      | short hdr =>
        cases hf : headerFault p s.nch hdr with
        | none => simp [State.fetch, hd, hf] at hready
        | some c => exact ⟨c, hf, State.sharedStep_error hj (hfetch.trans (by simp only [State.fetch, hd, hf]))⟩

/-! ## The steps of a coefficient write (R82, R131) -/

/-- One coefficient register written: its channel holds the new value there, and keeps the rest (R81). -/
theorem State.kernel_writeCoefReg {s : State} {ch : BitVec 8} (hch : ch.toNat < s.nch) (r : CoefReg) (v : Dword) :
    (s.writeCoefReg ch r v).kernel ch = { s.kernel ch with coef := (s.kernel ch).coef.set r v } :=
  State.kernel_setKernel_same _ _ _ hch

theorem State.kernel_validateCoef {s : State} {ch : BitVec 8} (hch : ch.toNat < s.nch) :
    (s.validateCoef ch).kernel ch = { s.kernel ch with valid := true } :=
  State.kernel_setKernel_same _ _ _ hch

/-- A step that writes a coefficient register writes that one alone, and it is one of those left (R82). -/
theorem stepJob_coefWrite (ch : BitVec 8) (p : CoefReg × Dword) (todo : List (CoefReg × Dword)) (next : AfterCoef) (s : State)
    (hch : ch.toNat < s.nch) :
    let t := stepJob (.coefWrite ch (p :: todo) next) s
    ∃ j r v, (p :: todo)[j]? = some (r, v) ∧ (t.kernel ch).coef.get r = v ∧
      (∀ q, q ≠ r → (t.kernel ch).coef.get q = (s.kernel ch).coef.get q) ∧ (t.kernel ch).valid = (s.kernel ch).valid ∧
      t.ncoef = s.ncoef ∧ kernelsExcept ch s t ∧ (t.portState s.cur).job = some (.coefWrite ch ((p :: todo).eraseIdx j) next) := by
  obtain ⟨j, r, v, hget, hstep⟩ := stepCoefWrite_eq ch p todo next s
  have hk : (stepJob (.coefWrite ch (p :: todo) next) s).kernels =
      s.kernels.set ch.toNat { s.kernel ch with coef := (s.kernel ch).coef.set r v } := by
    rw [stepJob, hstep, State.setJob_kernels]
    rfl
  refine ⟨j, r, v, hget, ?_⟩
  rw [State.kernel_of_set hch hk]
  refine ⟨by rw [Coefs.get_set, if_pos rfl], fun q hq => by rw [Coefs.get_set, if_neg hq], rfl, ?_, kernelsExcept_of_set hk, ?_⟩
  · rw [stepJob, hstep, State.setJob_ncoef]
    rfl
  · rw [stepJob, hstep]
    exact congrArg PortState.job (State.portState_setJob_cur ((s.setTicks (s.ticks + 1)).writeCoefReg ch r v) _)

/-- The step that ends a coefficient write sets the valid bit and counts the computation (R131). -/
theorem stepJob_coefValid (ch : BitVec 8) (next : AfterCoef) (s : State) (hch : ch.toNat < s.nch) :
    let t := stepJob (.coefWrite ch [] next) s
    (t.kernel ch).valid = true ∧ (t.kernel ch).coef = (s.kernel ch).coef ∧ t.ncoef = s.ncoef + 1 ∧ kernelsExcept ch s t := by
  obtain ⟨k, hvalid, hcoef, hk⟩ : ∃ k : Kernel, k.valid = true ∧ k.coef = (s.kernel ch).coef ∧
      (stepJob (.coefWrite ch [] next) s).kernels = s.kernels.set ch.toNat k := by
    cases next with
    | finish => exact ⟨{ s.kernel ch with valid := true }, rfl, rfl, State.complete_kernels _ 5⟩
    | filter f res src dst n =>
      refine ⟨{ s.kernel ch with valid := true, lastF := f, lastR := res }, rfl, rfl, (State.setJob_kernels _ _).trans ?_⟩
      have hset : ((s.validateCoef ch).writeCache ch f res).kernels =
          (s.kernels.set ch.toNat { s.kernel ch with valid := true }).set ch.toNat
            { (s.validateCoef ch).kernel ch with lastF := f, lastR := res } := rfl
      rw [hset, List.set_set, State.kernel_validateCoef hch]
  intro t
  have hn : t.ncoef = s.ncoef + 1 := (stepJob_portMove _ s).ncoef.1 ⟨ch, next, rfl⟩
  rw [State.kernel_of_set hch hk]
  exact ⟨hvalid, hcoef, hn, kernelsExcept_of_set hk⟩

/-! ## The steps of coefficient reads (R136, R184) -/

/-- A read of one of the registers left, whatever command it is of: `resume` is what the port goes on with (R81, R184). -/
theorem stepCoefRead_readsCoefficient (ch : BitVec 8) (r₀ : CoefReg) (todo : List CoefReg) (got : Coefs) (s : State)
    (resume : List CoefReg → Coefs → Job) :
    ∃ j r got', (r₀ :: todo)[j]? = some r ∧
      (let u := stepCoefRead ch (r₀ :: todo) got s
       let t := u.2.2.setJob (resume u.1 u.2.1)
       readsCoefficient ch r got got' s t ∧
        t.portState s.cur = { s.portState s.cur with job := some (resume ((r₀ :: todo).eraseIdx j) got') }) := by
  obtain ⟨j, r, hget, hread⟩ := stepCoefRead_eq ch r₀ todo got s
  refine ⟨j, r, got.set r ((s.kernel ch).coef.get r), hget, ?_⟩
  simp only [hread]
  refine ⟨⟨by rw [Coefs.get_set, if_pos rfl], fun q hq => by rw [Coefs.get_set, if_neg hq], ?_⟩, ?_⟩
  · refine ⟨by simp, by simp [State.setJob], by simp, by simp, by simp [State.setJob], fun p hp => ?_⟩
    rw [State.portState_setJob_ne (s.setTicks (s.ticks + 1)) _ _ hp, State.setTicks_portState]
  · have hport := State.portState_setJob_cur (s.setTicks (s.ticks + 1)) (resume ((r₀ :: todo).eraseIdx j) (got.set r ((s.kernel ch).coef.get r)))
    rwa [State.setTicks_portState] at hport

/-- Settles O60: `stepJob_coefWrite` and `stepJob_coefValid` are the write's steps, `stepCoefRead_readsCoefficient` the two reads'. -/
theorem coefficientWriteSteps : Obligations.CoefficientWriteSteps :=
  ⟨fun ch p todo next s hch => ⟨stepJob_coefWrite ch p todo next s hch, stepJob_coefValid ch next s hch⟩,
    fun ch r₀ todo got rate freq next s =>
      stepCoefRead_readsCoefficient ch r₀ todo got s fun left got' => .magRead ch left got' rate freq next,
    fun ch r₀ todo got dst s => stepCoefRead_readsCoefficient ch r₀ todo got s fun left got' => .rdRead ch left got' dst⟩

end Sys2Proof.Machine
end


section
/-! PROOFS. Reads and writes of `MEM` (R70–R76), and the host's accesses to it (R75, R88, R248, R249, R252). -/

namespace Sys2Proof.Machine

/-! ## Reads (R71, R72) -/

theorem State.memRead_written {s : State} {a : Nat} {w : Word} (h : memWord? s.mem a = some w) : s.memRead a = (w, s) := by
  simp only [State.memRead, h]

theorem State.memRead_unwritten {s : State} {a : Nat} (h : memWord? s.mem a = none) :
    s.memRead a = (Config.unwrittenDraw s.draws, s.setDraws (s.draws + 1)) := by
  simp only [State.memRead, h]

/-- Settles O29: `putWord` puts the word at its address and leaves the others. -/
theorem memoryReadsLastWrite : Obligations.MemoryReadsLastWrite := by
  intro s a b w v
  have hother (hb : b ≠ a) : memWord? (s.memWrite a w).mem b = memWord? s.mem b := memWord?_putWord_ne s.mem a b w hb
  exact ⟨State.memRead_written (memWord?_putWord_same s.mem a w), fun hb hv => State.memRead_written ((hother hb).trans hv),
    fun hb hv => (hother hb).trans hv⟩

/-- Settles O30: the word stays unwritten, and the count of draws has gone on. -/
theorem unwrittenReadIsFreshDraw : Obligations.UnwrittenReadIsFreshDraw := by
  intro s a h
  refine ⟨State.memRead_unwritten h, ?_⟩
  rw [State.memRead_unwritten h, State.memRead_unwritten (s := s.setDraws (s.draws + 1)) h]
  rfl

/-! ## The words in use (R248, R249, R252) -/

theorem within_iff (a n x : Nat) : within a n x = true ↔ a ≤ x ∧ x < a + n := by
  simp [within]

/-- The words that the model lets a command use are those it reads or writes (R70, R74). -/
theorem Instr.uses_iff (i : Instr) (x : Nat) : Instr.uses i x = true ↔ usesWord i x := by
  cases i with
  | wrp | reset | calcCoef => exact iff_of_false nofun id
  | process ch sil src dst n => simp only [Instr.uses, usesWord, Bool.or_eq_true, within_iff]
  | eval ch freq dst =>
    simp only [Instr.uses, usesWord, within_iff]
    omega
  | curve ch a n => exact within_iff _ _ x
  | rdcoef ch dst => exact within_iff _ _ x

theorem State.portUses_iff (p : Port) (x : Nat) (s : State) : s.portUses p x = true ↔ usesWordOf s p x := by
  have hunseen : (∃ e ∈ s.unseen, e.1 = p ∧ usesWord e.2 x) ↔ ∃ i, (p, i) ∈ s.unseen ∧ usesWord i x :=
    ⟨fun ⟨⟨q, i⟩, he, hq, hi⟩ => ⟨i, hq ▸ he, hi⟩, fun ⟨i, he, hi⟩ => ⟨(p, i), he, rfl, hi⟩⟩
  simp only [State.portUses, PortState.uses, usesWordOf, Bool.or_eq_true, List.any_eq_true, Bool.and_eq_true, decide_eq_true_eq,
    Instr.uses_iff, hunseen]

theorem State.handlesError_iff (p : Port) (s : State) : s.handlesError p = true ↔ (s.portState p).err = true ∧ p ∈ s.errorsSeen := by
  simp [State.handlesError]

/-- A word is in use for the host where a port uses it whose error the host is not handling (R248, R252). -/
theorem State.inUse_iff_usesWordOf (x : Nat) (s : State) :
    s.inUse x = true ↔ ∃ p, usesWordOf s p x ∧ ¬((s.portState p).err = true ∧ p ∈ s.errorsSeen) := by
  simp only [State.inUse_iff, State.portUses_iff, ← State.handlesError_iff, Bool.not_eq_true]

/-! ## The host's accesses (R75, R88) -/

theorem memoryAccess_iff (off size : Nat) : memoryAccess off size = true ↔ size = 4 ∧ off % 4 = 0 := by
  simp [memoryAccess]

section
variable {s : State} {off size : Nat}

theorem hostMove_memRead (ha : memoryAccess off size = true) (hr : off / 4 < s.cfg.memWords) :
    hostMove (.memRead off size) s = .next ((s.memRead (off / 4)).2.answer (s.memRead (off / 4)).1) := by
  simp [hostMove, ha, hr]

theorem hostMove_memWrite (ha : memoryAccess off size = true) (hr : off / 4 < s.cfg.memWords) (w : Word) :
    hostMove (.memWrite off size w) s = if s.inUse (off / 4) then .refused .hostRace else .next (s.memWrite (off / 4) w) := by
  simp [hostMove, ha, hr]

/-- An access to `MEM` that is no whole aligned word is refused (R75). -/
theorem hostMove_memory_refused (ha : memoryAccess off size ≠ true) (w : Word) :
    hostMove (.memRead off size) s = .refused .hostMemAccess ∧ hostMove (.memWrite off size w) s = .refused .hostMemAccess := by
  simp [hostMove, ha]

/-- An access outside `MEM` faults (R70). -/
theorem hostMove_memory_fault (ha : memoryAccess off size = true) (hr : s.cfg.memWords ≤ off / 4) (w : Word) :
    hostMove (.memRead off size) s = .fault .hostMemRange ∧ hostMove (.memWrite off size w) s = .fault .hostMemRange := by
  simp [hostMove, ha, hr]

end

theorem memoryExcept_memWrite (s : State) (a : Nat) (w : Word) : memoryExcept a 1 s (s.memWrite a w) :=
  fun y hy => memByte?_putWord_ne s.mem a y w (by omega)

/-! ## The errors the host has seen (R252) -/

theorem State.mem_errorsSeen_seesStatus {p : Port} {s : State} (h : (s.portState p).err = true) : p ∈ (s.seesStatus p).errorsSeen :=
  (((s.seesStatus p).handlesError_iff p).1 (s.handlesError_seesStatus p h)).2

theorem State.not_mem_errorsSeen_clear (p : Port) (s : State) : p ∉ (s.clear p).errorsSeen := by
  simp [State.clear]

/-- Settles O26: `inUse_iff_usesWordOf` says which writes are refused, `putWord` what the others do. -/
theorem hostMemoryAccesses : Obligations.HostMemoryAccesses := by
  refine ⟨fun s off size w => ?_, fun s t p w herr => ⟨fun h => ?_, fun hw h => ?_⟩⟩
  · rw [← memoryAccess_iff]
    refine ⟨fun ha => hostMove_memory_refused ha w, fun ha hr => hostMove_memory_fault ha hr w, fun ha hr hno => ?_,
      fun ha hr huse => ?_, fun ha hr v hv => ?_, fun ha hr hv => ?_⟩
    · have hfree : ¬s.inUse (off / 4) = true := by
        rw [State.inUse_iff_usesWordOf]
        rintro ⟨p, huse, hseen⟩
        exact hseen (hno p huse)
      refine ⟨_, (hostMove_memWrite ha hr w).trans (if_neg hfree), memWord?_putWord_same s.mem _ w, memoryExcept_memWrite s _ w,
        s.memWrite_portState _ w, rfl, rfl, rfl, rfl⟩
    · rw [hostMove_memWrite ha hr, if_pos ((s.inUse_iff_usesWordOf _).2 huse)]
    · rw [hostMove_memRead ha hr, State.memRead_written hv]
    · rw [hostMove_memRead ha hr, State.memRead_unwritten hv]
  · cases p <;> cases h <;> exact State.mem_errorsSeen_seesStatus (s := s.answer _) herr
  · have hclear : s.writeStatus p w = s.clear p := by rw [State.writeStatus, hw, herr]; rfl
    have ht : t = s.writeStatus p w := by cases p <;> cases h <;> rfl
    rw [ht, hclear]
    exact s.not_mem_errorsSeen_clear p

end Sys2Proof.Machine
end


section
/-! PROOFS. CURVE (R182–R185, R213): its frame, its entries in order, and the entries before a failing one. -/

namespace Sys2Proof.Machine

/-! ## How a command ends -/

/-- What a command's work leaves outside, it leaves when it fails. -/
theorem keepsOthers_raise {s u : State} (h : s.sameOutside u) (c : ErrCode) : keepsOthers s (u.raise c) := by
  refine ⟨by simp [h.cfg], by simp [h.cur], by simp [h.host], by simp [h.returned], by simp [h.errorsSeen], by simp [h.ticks], fun q hq => ?_⟩
  rw [State.portState_raise_ne _ _ _ (h.cur ▸ hq)]
  cases q
  · exact h.portR
  · exact h.portD

theorem State.sameOutside.portState {s u : State} (h : s.sameOutside u) (p : Port) : u.portState p = s.portState p := by
  cases p
  · exact h.portR
  · exact h.portD

/-- Work that keeps its port completes as `completed` says. -/
theorem completed_of_sameOutside {s u : State} (h : s.sameOutside u) (len : Nat) : completed len s (u.complete len) :=
  completed_of_complete len h.cur (h.portState _) h.unseen

/-- Work that keeps its port fails as `failedWith` says. -/
theorem failedWith_of_sameOutside {s u : State} (h : s.sameOutside u) (c : ErrCode) : failedWith c s (u.raise c) :=
  failedWith_of_raise c h.cur (h.portState _) h.unseen

/-- The state that a rule leaves, before its end is recorded. -/
def Ended.state : Ended → State
  | .done t => t
  | .failed _ t => t

/-- The error that a rule ends with, if any. -/
def Ended.error? : Ended → Option ErrCode
  | .done _ => none
  | .failed c _ => some c

/-- The end of a rule recorded on the running port: its completion (R112), or its error (R212). -/
def Ended.record (len : Nat) : Ended → State
  | .done t => t.complete len
  | .failed c t => t.raise c

/-- A command that passes its header checks is its rule, recorded (R112). -/
theorem exec_eq_record {i : Instr} {s : State} (hf : headerFault s.cur s.nch i.header = none) :
    exec i s = .next ((commandRule i s).record i.len) := by
  rw [exec_eq_issue]
  cases hr : commandRule i s with
  | done t => rw [State.issue_done hf hr]; rfl
  | failed c t => rw [State.issue_failed hf hr]; rfl

theorem State.fresh32_writtenAs (s : State) (w : Word) : writtenAs32 w (s.fresh32 w).1 := by
  refine ⟨fun h => by rw [s.fresh32_value w h], fun h => ?_⟩
  rw [s.fresh32_isNaN h]
  exact isQuietNaN32_quietNaN32 _

/-! ## The frame of a CURVE (R182) -/

/-- What the entries of a CURVE leave: every word but the result words of `n` entries at `a`, and every register. -/
structure State.CurveKept (a n : Nat) (s t : State) : Prop where
  reads : s.readsTo t
  memory : ∀ y, (∀ i, i < n → y / 4 ≠ a + 2 * i + 1) → memByte? t.mem y = memByte? s.mem y

theorem State.CurveKept.refl (a n : Nat) (s : State) : s.CurveKept a n s := ⟨.refl s, fun _ _ => rfl⟩

/-- The first entry's frame, then that of the entries after it. -/
theorem State.CurveKept.cons {a n : Nat} {s t u : State} (h : s.CurveKept a 1 t) (g : t.CurveKept (a + 2) n u) : s.CurveKept a (n + 1) u where
  reads := h.reads.trans g.reads
  memory y hy := by
    rw [g.memory y fun i hi => by have := hy (i + 1) (by omega); omega, h.memory y fun i hi => by have := hy i (by omega); omega]

theorem State.CurveKept.mono {a m n : Nat} {s t : State} (h : s.CurveKept a m t) (hmn : m ≤ n) : s.CurveKept a n t :=
  ⟨h.reads, fun y hy => h.memory y fun i hi => hy i (by omega)⟩

/-- A word that is no result word is as it was. -/
theorem State.CurveKept.memWord? {a n : Nat} {s t : State} (h : s.CurveKept a n t) {b : Nat} (hb : ∀ i, i < n → b ≠ a + 2 * i + 1) :
    memWord? t.mem b = Machine.memWord? s.mem b := by
  have hbyte (k : Nat) (hk : k < 4) : memByte? t.mem (4 * b + k) = memByte? s.mem (4 * b + k) :=
    h.memory _ fun i hi => by have := hb i hi; omega
  have h0 := hbyte 0 (by decide)
  rw [Nat.add_zero] at h0
  simp only [Machine.memWord?, h0, hbyte 1 (by decide), hbyte 2 (by decide), hbyte 3 (by decide)]

theorem State.CurveKept.curveFrame_complete {a n : Nat} {s t : State} (h : s.CurveKept a n t) (len : Nat) : curveFrame a n s (t.complete len) := by
  obtain ⟨hout, hk, hn⟩ := h.reads
  exact ⟨by rw [State.complete_mem]; exact h.memory, (t.complete_kernels len).trans hk, (t.complete_params len).trans hout.params,
    (t.complete_ncoef len).trans hn⟩

theorem State.CurveKept.curveFrame_raise {a n : Nat} {s t : State} (h : s.CurveKept a n t) (c : ErrCode) : curveFrame a n s (t.raise c) := by
  obtain ⟨hout, hk, hn⟩ := h.reads
  exact ⟨by rw [State.raise_mem]; exact h.memory, (t.raise_kernels c).trans hk, (t.raise_params c).trans hout.params,
    (t.raise_ncoef c).trans hn⟩

theorem curveEntry_kept (ch : BitVec 8) (a : Nat) (s : State) : (curveEntry ch a s).Leaves (s.CurveKept a 1) := by
  have hreads := curveEntry_leaves ch a s
  cases h : curveEntry ch a s with
  | done t =>
    rw [h] at hreads
    obtain ⟨-, -, -, hmem⟩ := curveEntry_frame ch a s t (.inl h)
    exact ⟨hreads, fun y hy => hmem y (hy 0 (by decide))⟩
  | failed c t =>
    rw [h] at hreads
    obtain ⟨-, -, -, hmem⟩ := curveEntry_frame ch a s t (.inr ⟨c, h⟩)
    exact ⟨hreads.1, hreads.2, fun y hy => hmem y (hy 0 (by decide))⟩

theorem curveEntries_kept (n : Nat) (ch : BitVec 8) (a : Nat) (s : State) : (curveEntries ch a n s).Leaves (s.CurveKept a n) := by
  induction n generalizing a s with
  | zero => exact .refl a 0 s
  | succ n ih =>
    have hentry := curveEntry_kept ch a s
    rw [curveEntries]
    cases h : curveEntry ch a s with
    | failed c t =>
      rw [h] at hentry
      exact ⟨hentry.1, hentry.2.mono (by omega)⟩
    | done t =>
      rw [h] at hentry
      exact (ih (a + 2) t).imp fun u hu => .cons hentry hu

theorem curveRule_kept (ch : BitVec 8) (a n : Nat) (s : State) : (curveRule ch a n s).Leaves (s.CurveKept a n) := by
  unfold curveRule
  split_ifs
  case pos => exact .refl a n s
  case neg => exact curveEntries_kept n ch a s
  all_goals exact ⟨by decide, .refl a n s⟩

/-- However a CURVE ends, it leaves what its entries leave (R182). -/
theorem exec_curve_frame {ch : BitVec 8} {a n : Word} {s t : State} (h : exec (.curve ch a n) s = .next t) :
    keepsOthers s t ∧ curveFrame a.toNat n.toNat s t := by
  have hkept := curveRule_kept ch a.toNat n.toNat s
  rcases exec_cases h with ⟨c, -, rfl⟩ | ⟨-, c, u, hr, rfl⟩ | ⟨-, u, hr, rfl⟩
  · exact ⟨keepsOthers_raise (.refl s) c, (State.CurveKept.refl _ _ s).curveFrame_raise c⟩
  · rw [show curveRule ch a.toNat n.toNat s = _ from hr] at hkept
    exact ⟨keepsOthers_raise hkept.2.reads.1 c, hkept.2.curveFrame_raise c⟩
  · rw [show curveRule ch a.toNat n.toNat s = _ from hr] at hkept
    exact ⟨keepsOthers_complete hkept.reads.1 _, hkept.curveFrame_complete _⟩

/-! ## The checks before the entries -/

/-- A CURVE that passes its header check is its rule, recorded. -/
theorem exec_curve {ch : BitVec 8} {a n : Word} {s : State} (hch : ch.toNat < s.nch) :
    exec (.curve ch a n) s = .next ((curveRule ch a.toNat n.toNat s).record 3) :=
  exec_eq_record (i := .curve ch a n) (headerFault_none nofun (.inr rfl) hch)

/-- A CURVE that passes the checks before its entries is its entries (R182). -/
theorem curveRule_eq {ch : BitVec 8} {a n : Nat} {s : State}
    (h : 0 < n → a + 2 * n ≤ s.cfg.memWords ∧ s.params.rateValid = true ∧ (s.kernel ch).valid = true) :
    curveRule ch a n s = curveEntries ch a n s := by
  cases n with
  | zero => rfl
  | succ n =>
    obtain ⟨hrange, hrate, hvalid⟩ := h (by omega)
    simp [curveRule, State.inRange, hrange, hrate, hvalid]

/-! ## The entries in order (R182) -/

theorem State.readsTo.kernel {s t : State} (h : s.readsTo t) (ch : BitVec 8) : t.kernel ch = s.kernel ch := by
  rw [State.kernel, h.2.1, State.kernel]

/-- The word read for an entry is the one written, where one is (R71). -/
theorem State.memRead_of_written (s : State) (a : Nat) (v : Word) (h : memWord? s.mem a = some v) : (s.memRead a).1 = v := by
  rw [State.memRead_written h]

theorem memWord?_memWrite_update (s : State) (a : Nat) (w : Word) :
    memWord? (s.memWrite a w).mem = Function.update (memWord? s.mem) a (some w) := by
  funext b
  by_cases hb : b = a
  · rw [hb, Function.update_self]
    exact memWord?_putWord_same s.mem a w
  · rw [Function.update_of_ne hb]
    exact memWord?_putWord_ne s.mem a b w hb

/-- The entries fill the table: they end with no error, or with that of the first entry that cannot be evaluated (R182). -/
theorem curveEntries_fillsTable (n : Nat) (ch : BitVec 8) (a : Nat) (s : State) :
    fillsTable (s.kernel ch).coef s.params.rate n a (memWord? s.mem) (memWord? (curveEntries ch a n s).state.mem)
      (curveEntries ch a n s).error? := by
  induction n generalizing a s with
  | zero => exact ⟨rfl, rfl⟩
  | succ n ih =>
    refine ⟨_, s.memRead_of_written a, ?_⟩
    obtain ⟨k, ⟨hd, h⟩ | ⟨hd, hm, h⟩ | ⟨m, hd, hm, h⟩⟩ := curveEntry_cases ch a s
    · simp only [curveEntries, h, hd]
      exact ⟨rfl, rfl⟩
    · simp only [curveEntries, h, hd, hm]
      exact ⟨rfl, rfl⟩
    · have hrest := ih (a + 2) (((s.setDraws k).fresh32 m).2.memWrite (a + 1) ((s.setDraws k).fresh32 m).1)
      rw [memWord?_memWrite_update] at hrest
      simp only [curveEntries, h, hd, hm]
      refine ⟨_, (s.setDraws k).fresh32_writtenAs m, ?_⟩
      rw [State.fresh32_state] at hrest ⊢
      exact hrest

/-! ## Entries that can be evaluated (R182, R213) -/

/-- The first `k` frequency words of the table at `a` are `fw`, and each can be evaluated (R182). -/
def State.evaluates (ch : BitVec 8) (a k : Nat) (fw : Nat → Word) (s : State) : Prop :=
  ∀ i, i < k → memWord? s.mem (a + 2 * i) = some (fw i) ∧ responseDomain s.params.rate (fw i) = true ∧
    magnitude (s.kernel ch).coef (to64 (fw i)) (to64 s.params.rate) ≠ none

/-- The first `k` result words of the table at `a` hold the magnitudes of the frequency words `fw`. -/
def holdsMagnitudes (c : Coefs) (rate : Word) (a k : Nat) (fw : Nat → Word) (t : State) : Prop :=
  ∀ i, i < k → ∀ m, magnitude c (to64 (fw i)) (to64 rate) = some m → holdsMagnitude t (a + 2 * i + 1) m

/-- An entry whose frequency word is written and can be evaluated writes its magnitude (R182). -/
theorem curveEntry_evaluates {ch : BitVec 8} {a : Nat} {w m : Word} {s : State} (hw : memWord? s.mem a = some w)
    (hd : responseDomain s.params.rate w = true) (hm : magnitude (s.kernel ch).coef (to64 w) (to64 s.params.rate) = some m) :
    ∃ t, curveEntry ch a s = .done t ∧ s.CurveKept a 1 t ∧ holdsMagnitude t (a + 1) m := by
  have hentry : curveEntry ch a s = .done ((s.fresh32 m).2.memWrite (a + 1) (s.fresh32 m).1) := by
    simp [curveEntry, State.memRead_written hw, hd, writeMagnitude, hm]
  have hkept := curveEntry_kept ch a s
  rw [hentry] at hkept
  exact ⟨_, hentry, hkept, _, memWord?_putWord_same _ _ _, s.fresh32_writtenAs m⟩

/-- An entry whose frequency word is written and cannot be evaluated fails and changes nothing (R213). -/
theorem curveEntry_fails {ch : BitVec 8} {a : Nat} {w : Word} {s : State} (hw : memWord? s.mem a = some w)
    (h : responseDomain s.params.rate w = false ∨ magnitude (s.kernel ch).coef (to64 w) (to64 s.params.rate) = none) :
    curveEntry ch a s = .failed (if responseDomain s.params.rate w then .degenerate else .domain) s := by
  cases hd : responseDomain s.params.rate w with
  | false => simp [curveEntry, State.memRead_written hw, hd]
  | true => simp [curveEntry, State.memRead_written hw, hd, writeMagnitude, h.resolve_left (by simp [hd])]

/-- The entries that can be evaluated are done, and the others go on from there (R182). -/
theorem curveEntries_evaluates (k m : Nat) (ch : BitVec 8) (a : Nat) (fw : Nat → Word) (s : State) (h : s.evaluates ch a k fw) :
    ∃ t, curveEntries ch a (k + m) s = curveEntries ch (a + 2 * k) m t ∧ s.CurveKept a k t ∧
      holdsMagnitudes (s.kernel ch).coef s.params.rate a k fw t := by
  induction k generalizing a fw s with
  | zero => exact ⟨s, by simp, .refl a 0 s, fun i hi => absurd hi (by omega)⟩
  | succ k ih =>
    obtain ⟨hw, hd, hm⟩ := h 0 (by omega)
    obtain ⟨g, hg⟩ := Option.ne_none_iff_exists'.1 hm
    obtain ⟨u, hentry, hkept, hfirst⟩ := curveEntry_evaluates hw hd hg
    have hrate := hkept.reads.1.params
    have hkernel := hkept.reads.kernel ch
    have hrest : u.evaluates ch (a + 2) k fun i => fw (i + 1) := by
      intro i hi
      rw [hrate, hkernel, hkept.memWord? fun j hj => by omega, show a + 2 + 2 * i = a + 2 * (i + 1) by omega]
      exact h (i + 1) (by omega)
    obtain ⟨t, hrun, hkept', hmags⟩ := ih (a + 2) (fun i => fw (i + 1)) u hrest
    refine ⟨t, ?_, .cons hkept hkept', ?_⟩
    · rw [show k + 1 + m = k + m + 1 by omega, curveEntries, show curveEntry ch a s = _ from hentry]
      simp only [hrun, show a + 2 + 2 * k = a + 2 * (k + 1) by omega]
    · intro i hi m hi'
      cases i with
      | zero =>
        obtain ⟨w, hword, hwritten⟩ := hfirst
        rw [hg] at hi'
        cases hi'
        exact ⟨w, (hkept'.memWord? fun j hj => by omega).trans hword, hwritten⟩
      | succ i =>
        rw [hrate, hkernel] at hmags
        rw [show a + 2 * (i + 1) + 1 = a + 2 + 2 * i + 1 by omega]
        exact hmags i (by omega) m hi'

/-! ## The statements -/

/-- Settles O48: the entries before the failing one are done (`curveEntries_evaluates`), and it changes nothing (`curveEntry_fails`). -/
theorem curveKeepsEarlierEntries : Obligations.CurveKeepsEarlierEntries := by
  refine ⟨fun ch a n s t => exec_curve_frame, fun ch a n k fw s hch hk hrange hrate hvalid hfw hgood hbad => ?_⟩
  obtain ⟨m, hn⟩ : ∃ m, n.toNat = k + (m + 1) := ⟨n.toNat - k - 1, by omega⟩
  obtain ⟨u, hrun, hkept, hmags⟩ := curveEntries_evaluates k (m + 1) ch a.toNat fw s fun i hi => ⟨hfw i hi.le, hgood i hi⟩
  have hw : memWord? u.mem (a.toNat + 2 * k) = some (fw k) := (hkept.memWord? fun i hi => by omega).trans (hfw k le_rfl)
  have hfail := curveEntry_fails (ch := ch) hw (by rwa [hkept.reads.1.params, hkept.reads.kernel])
  rw [hkept.reads.1.params] at hfail
  have hrule : curveRule ch a.toNat n.toNat s = .failed (if responseDomain s.params.rate (fw k) then .degenerate else .domain) u := by
    rw [curveRule_eq fun _ => ⟨hrange, hrate, hvalid⟩, hn, hrun, curveEntries, hfail]
  refine ⟨_, (exec_curve hch).trans (by rw [hrule, Ended.record]), keepsOthers_raise hkept.reads.1 _, failedWith_of_sameOutside hkept.reads.1 _,
    fun i hi m hm => ?_, hkept.curveFrame_raise _⟩
  rw [holdsMagnitude, State.raise_mem]
  exact hmags i hi m hm

/-- Settles O49: `curveEntries_fillsTable` is the run of any CURVE, `curveEntries_evaluates` that of one that completes. -/
theorem curveFillsTable : Obligations.CurveFillsTable := by
  refine ⟨fun ch a n s hch hchecks => ?_, fun ch a n fw s hch hchecks hgood => ?_⟩
  · have hexec := exec_curve (a := a) (n := n) hch
    obtain ⟨hothers, hframe⟩ := exec_curve_frame hexec
    have hfill := curveEntries_fillsTable n.toNat ch a.toNat s
    have hkept := curveEntries_kept n.toNat ch a.toNat s
    rw [curveRule_eq hchecks] at hexec hothers hframe
    refine ⟨_, (curveEntries ch a.toNat n.toNat s).error?, hexec, hothers, hframe, ?_⟩
    cases h : curveEntries ch a.toNat n.toNat s <;> rw [h] at hfill hkept
    case done t => exact ⟨by rwa [Ended.record, State.complete_mem], completed_of_sameOutside hkept.reads.1 3⟩
    case failed c t => exact ⟨by rwa [Ended.record, State.raise_mem], failedWith_of_sameOutside hkept.2.reads.1 c⟩
  · obtain ⟨t, hrun, hkept, hmags⟩ := curveEntries_evaluates n.toNat 0 ch a.toNat fw s hgood
    have hrule : curveRule ch a.toNat n.toNat s = .done t := (curveRule_eq hchecks).trans hrun
    refine ⟨_, (exec_curve hch).trans (by rw [hrule, Ended.record]), completed_of_sameOutside hkept.reads.1 3, keepsOthers_complete hkept.reads.1 3,
      hkept.curveFrame_complete 3, fun i hi m hm => ?_, fun hn => ?_⟩
    · rw [holdsMagnitude, State.complete_mem]
      exact hmags i hi m hm
    · have ht : t = s := by
        rw [hn] at hrule
        exact (Ended.done.inj hrule).symm
      rw [State.complete_mem, State.complete_draws, ht]
      exact ⟨rfl, rfl⟩

end Sys2Proof.Machine
end


section
/-! PROOFS. A whole command's state with the command in progress on it: what the operations and the atomic steps make of it (R81). -/

namespace Sys2Proof.Machine

/-! ## A command in progress -/

/-- The state `u` that a whole command passes through, with the command at `j` on the running port and `n` free choices made. -/
def State.inProgress (n : Nat) (j : Job) (u : State) : State := (u.setTicks n).setJob j

/-- The end of a rule, with the command in progress. -/
def Ended.inProgress (n : Nat) (j : Job) : Ended → Ended
  | .done t => .done (t.inProgress n j)
  | .failed c t => .failed c (t.inProgress n j)

theorem State.setJob_eq_inProgress (j : Job) (s : State) : s.setJob j = s.inProgress s.ticks j := rfl

section
variable (n : Nat) (j : Job) (u : State)

@[simp] theorem State.inProgress_kernels : (u.inProgress n j).kernels = u.kernels := by simp [State.inProgress]
@[simp] theorem State.inProgress_params : (u.inProgress n j).params = u.params := by simp [State.inProgress, State.setJob]
@[simp] theorem State.inProgress_ncoef : (u.inProgress n j).ncoef = u.ncoef := by simp [State.inProgress]
@[simp] theorem State.inProgress_mem : (u.inProgress n j).mem = u.mem := by simp [State.inProgress]
@[simp] theorem State.inProgress_cur : (u.inProgress n j).cur = u.cur := by simp [State.inProgress, State.setJob]
@[simp] theorem State.inProgress_draws : (u.inProgress n j).draws = u.draws := by simp [State.inProgress, State.setJob]
@[simp] theorem State.inProgress_ticks : (u.inProgress n j).ticks = n := by simp [State.inProgress, State.setJob]
@[simp] theorem State.inProgress_kernel (ch : BitVec 8) : (u.inProgress n j).kernel ch = u.kernel ch := by
  simp [State.inProgress, State.setJob]

theorem State.inProgress_job : ((u.inProgress n j).portState u.cur).job = some j :=
  congrArg PortState.job (State.portState_setJob_cur (u.setTicks n) j)

/-! ## The operations on it -/

@[simp] theorem State.setKernels_inProgress (ks : List Kernel) : (u.inProgress n j).setKernels ks = (u.setKernels ks).inProgress n j := by
  obtain ⟨_, _, _, _, _, _, _, p, _⟩ := u
  cases p <;> rfl

@[simp] theorem State.setNcoef_inProgress (w : Word) : (u.inProgress n j).setNcoef w = (u.setNcoef w).inProgress n j := by
  obtain ⟨_, _, _, _, _, _, _, p, _⟩ := u
  cases p <;> rfl

@[simp] theorem State.setMem_inProgress (m : List Host.Cell) : (u.inProgress n j).setMem m = (u.setMem m).inProgress n j := by
  obtain ⟨_, _, _, _, _, _, _, p, _⟩ := u
  cases p <;> rfl

@[simp] theorem State.setDraws_inProgress (k : Nat) : (u.inProgress n j).setDraws k = (u.setDraws k).inProgress n j := by
  obtain ⟨_, _, _, _, _, _, _, p, _⟩ := u
  cases p <;> rfl

@[simp] theorem State.setTicks_inProgress (k : Nat) : (u.inProgress n j).setTicks k = u.inProgress k j := by
  obtain ⟨_, _, _, _, _, _, _, p, _⟩ := u
  cases p <;> rfl

@[simp] theorem State.setJob_inProgress (i : Job) : (u.inProgress n j).setJob i = u.inProgress n i := by
  obtain ⟨_, _, _, _, _, _, _, p, _⟩ := u
  cases p <;> rfl

@[simp] theorem State.complete_inProgress (len : Nat) : (u.inProgress n j).complete len = (u.complete len).setTicks n := by
  obtain ⟨_, _, _, _, _, _, _, p, _⟩ := u
  cases p <;> rfl

@[simp] theorem State.raise_inProgress (c : ErrCode) : (u.inProgress n j).raise c = (u.raise c).setTicks n := by
  obtain ⟨_, _, _, _, _, _, _, p, _⟩ := u
  cases p <;> rfl

@[simp] theorem State.setKernel_inProgress (ch : BitVec 8) (k : Kernel) :
    (u.inProgress n j).setKernel ch k = (u.setKernel ch k).inProgress n j := by
  simp [State.setKernel]

@[simp] theorem State.writeCoefReg_inProgress (ch : BitVec 8) (r : CoefReg) (v : Dword) :
    (u.inProgress n j).writeCoefReg ch r v = (u.writeCoefReg ch r v).inProgress n j := by
  simp [State.writeCoefReg]

@[simp] theorem State.validateCoef_inProgress (ch : BitVec 8) : (u.inProgress n j).validateCoef ch = (u.validateCoef ch).inProgress n j := by
  simp [State.validateCoef]

@[simp] theorem State.writeCache_inProgress (ch : BitVec 8) (f res : Dword) :
    (u.inProgress n j).writeCache ch f res = (u.writeCache ch f res).inProgress n j := by
  simp [State.writeCache]

@[simp] theorem State.memWrite_inProgress (a : Nat) (w : Word) : (u.inProgress n j).memWrite a w = (u.memWrite a w).inProgress n j := by
  simp [State.memWrite]

@[simp] theorem State.memRead_inProgress (a : Nat) : (u.inProgress n j).memRead a = ((u.memRead a).1, (u.memRead a).2.inProgress n j) := by
  cases h : memWord? u.mem a with
  | none => rw [State.memRead_unwritten h, State.memRead_unwritten (by simpa using h)]; simp
  | some w => rw [State.memRead_written h, State.memRead_written (by simpa using h)]

@[simp] theorem State.fresh64_inProgress (v : Dword) : (u.inProgress n j).fresh64 v = ((u.fresh64 v).1, (u.fresh64 v).2.inProgress n j) := by
  simp only [State.fresh64]
  split_ifs <;> simp

@[simp] theorem State.fresh32_inProgress (w : Word) : (u.inProgress n j).fresh32 w = ((u.fresh32 w).1, (u.fresh32 w).2.inProgress n j) := by
  simp only [State.fresh32]
  split_ifs <;> simp

@[simp] theorem State.sampleIn_inProgress (ch : BitVec 8) (a : Nat) :
    (u.inProgress n j).sampleIn ch a = ((u.sampleIn ch a).1, (u.sampleIn ch a).2.inProgress n j) := by
  simp [State.sampleIn]

@[simp] theorem writeMagnitude_inProgress (c : Coefs) (rate freq : Word) (dst : Nat) :
    writeMagnitude c rate freq dst (u.inProgress n j) = (writeMagnitude c rate freq dst u).inProgress n j := by
  cases h : magnitude c (to64 freq) (to64 rate) <;> simp [writeMagnitude, h, Ended.inProgress]

end

/-! ## Runs of atomic steps -/

/-- The atomic steps of the command in progress come to `t`, but for the count of free choices (R81, R82). -/
def State.reaches (s t : State) : Prop := ∃ k, (runJobs k s).setTicks 0 = t.setTicks 0

theorem State.reaches.refl (s : State) : s.reaches s := ⟨0, rfl⟩

theorem State.reaches.of_setTicks (n : Nat) (s : State) : (s.setTicks n).reaches s := ⟨0, rfl⟩

/-- What the next atomic step leaves reaches `t`, so the state before it does. -/
theorem State.reaches.step {n : Nat} {j : Job} {u v t : State} (hstep : stepJob j (u.inProgress n j) = v) (h : v.reaches t) :
    (u.inProgress n j).reaches t := by
  obtain ⟨k, hk⟩ := h
  refine ⟨k + 1, ?_⟩
  simp only [runJobs, State.inProgress_cur, State.inProgress_job, hstep]
  exact hk

/-- An atomic step that ends the command comes to what the whole command records. -/
theorem State.reaches.last {n m : Nat} {j : Job} {u t : State} (hstep : stepJob j (u.inProgress n j) = t.setTicks m) :
    (u.inProgress n j).reaches t :=
  .step hstep (.of_setTicks m t)

/-! ## The coefficient write (R82, R131) -/

/-- Every register holds its value of `d` or is still to be written with it. -/
structure Coefs.Pending (d : Coefs) (todo : List (CoefReg × Dword)) (c : Coefs) : Prop where
  value : ∀ p ∈ todo, p.2 = d.get p.1
  written : ∀ r, (r, d.get r) ∈ todo ∨ c.get r = d.get r

theorem Coefs.ext_get {c d : Coefs} (h : ∀ r, c.get r = d.get r) : c = d := by
  obtain ⟨_, _, _, _, _⟩ := c
  obtain ⟨_, _, _, _, _⟩ := d
  simpa [Coefs.get] using And.intro (h .a0) (And.intro (h .a1) (And.intro (h .a2) (And.intro (h .b1) (h .b2))))

theorem Coefs.pending_coefTodo (d c : Coefs) : d.Pending (coefTodo d) c where
  value p hp := by
    simp only [coefTodo, List.mem_cons, List.not_mem_nil, or_false] at hp
    rcases hp with rfl | rfl | rfl | rfl | rfl <;> rfl
  written r := .inl (by cases r <;> simp [coefTodo, Coefs.get])

theorem Coefs.Pending.eq {d c : Coefs} (h : d.Pending [] c) : c = d :=
  Coefs.ext_get fun r => (h.written r).resolve_left List.not_mem_nil

/-- An element of a list is the one erased or is left. -/
theorem mem_eraseIdx_or_eq {α : Type} {l : List α} {i : Nat} {x y : α} (hx : l[i]? = some x) (hy : y ∈ l) : y = x ∨ y ∈ l.eraseIdx i := by
  obtain ⟨k, hk⟩ := List.mem_iff_getElem?.1 hy
  by_cases hki : k = i
  · rw [hki, hx] at hk
    exact .inl (Option.some.inj hk).symm
  · exact .inr (List.mem_eraseIdx_iff_getElem?.2 ⟨k, hki, hk⟩)

/-- One register of those left is written (R82). -/
theorem Coefs.Pending.set {d c : Coefs} {todo : List (CoefReg × Dword)} (h : d.Pending todo c) {i : Nat} {r : CoefReg} {v : Dword}
    (hget : todo[i]? = some (r, v)) : d.Pending (todo.eraseIdx i) (c.set r v) where
  value p hp := h.value p (List.mem_of_mem_eraseIdx hp)
  written q := by
    have hv : v = d.get r := h.value (r, v) (List.mem_of_getElem? hget)
    rw [Coefs.get_set]
    split_ifs with hq
    · exact .inr (hq ▸ hv)
    · refine (h.written q).imp_left fun hmem => (mem_eraseIdx_or_eq hget hmem).resolve_left fun heq => hq (congrArg Prod.fst heq)

theorem State.writeCoefReg_writeCoefRegs {s : State} {ch : BitVec 8} (hch : ch.toNat < s.nch) (r : CoefReg) (v : Dword) (d : Coefs) :
    (s.writeCoefReg ch r v).writeCoefRegs ch d = s.writeCoefRegs ch d := by
  rw [State.writeCoefRegs_eq, State.writeCoefRegs_eq, State.kernel_writeCoefReg hch]
  simp [State.writeCoefReg, State.setKernel, State.setKernels]

theorem State.writeCoefRegs_self {s : State} {ch : BitVec 8} (hch : ch.toNat < s.nch) : s.writeCoefRegs ch (s.kernel ch).coef = s := by
  rw [State.writeCoefRegs_eq]
  exact congrArg (fun ks => s.setKernels ks) (State.set_kernel_self hch)

/-- In whatever order the registers are written, the coefficient write comes to its sixth step with all of them (R82, R131). -/
theorem reaches_coefWrite {ch : BitVec 8} {d : Coefs} {next : AfterCoef} {t : State} (todo : List (CoefReg × Dword)) (n : Nat) (u : State)
    (hch : ch.toNat < u.nch) (hpending : d.Pending todo (u.kernel ch).coef)
    (h : ∀ n, ((u.writeCoefRegs ch d).inProgress n (.coefWrite ch [] next)).reaches t) :
    (u.inProgress n (.coefWrite ch todo next)).reaches t := by
  induction hm : todo.length generalizing todo n u with
  | zero =>
    obtain rfl := List.eq_nil_of_length_eq_zero hm
    rw [← hpending.eq, State.writeCoefRegs_self hch] at h
    exact h n
  | succ m ih =>
    obtain ⟨p, todo, rfl⟩ := List.exists_cons_of_length_eq_add_one hm
    obtain ⟨i, r, v, hget, hstep⟩ := stepCoefWrite_eq ch p todo next (u.inProgress n (.coefWrite ch (p :: todo) next))
    simp only [State.inProgress_ticks, State.setTicks_inProgress, State.writeCoefReg_inProgress, State.setJob_inProgress] at hstep
    obtain ⟨hi, -⟩ := List.getElem?_eq_some_iff.1 hget
    refine .step hstep (ih _ (n + 1) (u.writeCoefReg ch r v) (by rwa [State.writeCoefReg_nch]) ?_ ?_ ?_)
    · rw [State.kernel_writeCoefReg hch]
      exact hpending.set hget
    · rwa [State.writeCoefReg_writeCoefRegs hch]
    · rw [List.length_eraseIdx_of_lt hi, hm, Nat.add_sub_cancel]

/-! ## The coefficient reads (R136, R184) -/

/-- Every register is still to be read, or is read as `c` holds it. -/
def Coefs.Gathered (c : Coefs) (todo : List CoefReg) (got : Coefs) : Prop := ∀ r, r ∈ todo ∨ got.get r = c.get r

theorem Coefs.gathered_all (c got : Coefs) : c.Gathered allCoefRegs got := fun r => .inl (by cases r <;> decide)

theorem Coefs.Gathered.eq {c got : Coefs} (h : c.Gathered [] got) : got = c := Coefs.ext_get fun r => (h r).resolve_left List.not_mem_nil

/-- One register of those left is read (R184). -/
theorem Coefs.Gathered.set {c got : Coefs} {todo : List CoefReg} (h : c.Gathered todo got) {i : Nat} {r : CoefReg} (hget : todo[i]? = some r) :
    c.Gathered (todo.eraseIdx i) (got.set r (c.get r)) := by
  intro q
  rw [Coefs.get_set]
  split_ifs with hq
  · exact .inr (by rw [hq])
  · exact (h q).imp_left fun hmem => (mem_eraseIdx_or_eq hget hmem).resolve_left hq

/-- In whatever order the registers are read, the reads come to their end with the channel's coefficients (R136, R184). `resume` is what the
port goes on with. -/
theorem reaches_coefRead {ch : BitVec 8} {t : State} (resume : List CoefReg → Coefs → Job)
    (hresume : ∀ r todo got s, stepJob (resume (r :: todo) got) s =
      (stepCoefRead ch (r :: todo) got s).2.2.setJob
        (resume (stepCoefRead ch (r :: todo) got s).1 (stepCoefRead ch (r :: todo) got s).2.1))
    (todo : List CoefReg) (got : Coefs) (n : Nat) (u : State) (hgot : (u.kernel ch).coef.Gathered todo got)
    (h : ∀ n, (u.inProgress n (resume [] (u.kernel ch).coef)).reaches t) : (u.inProgress n (resume todo got)).reaches t := by
  induction hm : todo.length generalizing todo got n with
  | zero =>
    obtain rfl := List.eq_nil_of_length_eq_zero hm
    rw [hgot.eq]
    exact h n
  | succ m ih =>
    obtain ⟨r₀, todo, rfl⟩ := List.exists_cons_of_length_eq_add_one hm
    obtain ⟨i, r, hget, hread⟩ := stepCoefRead_eq ch r₀ todo got (u.inProgress n (resume (r₀ :: todo) got))
    have hstep := hresume r₀ todo got (u.inProgress n (resume (r₀ :: todo) got))
    simp only [hread, State.inProgress_ticks, State.setTicks_inProgress, State.setJob_inProgress, State.inProgress_kernel] at hstep
    obtain ⟨hi, -⟩ := List.getElem?_eq_some_iff.1 hget
    refine .step hstep (ih _ _ (n + 1) (hgot.set hget) ?_)
    rw [List.length_eraseIdx_of_lt hi, hm, Nat.add_sub_cancel]

end Sys2Proof.Machine
end


section
/-! PROOFS. The atomic steps of each command come to the state of the whole command (R81, R82, R131, R184). -/

namespace Sys2Proof.Machine

/-! ## One atomic step of a command in progress (R81) -/

section
variable (n : Nat) (j : Job) (u : State) (ch : BitVec 8)

theorem stepJob_sampleIn (src dst left : Nat) :
    stepJob (.sampleIn ch src dst left) (u.inProgress n j) = (u.sampleIn ch src).2.inProgress n (.sampleOut ch src dst left (u.sampleIn ch src).1) := by
  simp [stepJob]

theorem stepJob_sampleOut (src dst left : Nat) (out : Word) :
    stepJob (.sampleOut ch src dst left out) (u.inProgress n j) =
      if left ≤ 1 then ((u.memWrite dst out).complete 4).setTicks n
      else (u.memWrite dst out).inProgress n (.sampleIn ch (src + 1) (dst + 1) (left - 1)) := by
  simp [stepJob]

theorem stepJob_coefValid_finish :
    stepJob (.coefWrite ch [] .finish) (u.inProgress n j) = ((u.validateCoef ch).complete 5).setTicks n := by
  simp [stepJob, stepCoefValid]

theorem stepJob_coefValid_filter (f res : Dword) (src dst left : Nat) :
    stepJob (.coefWrite ch [] (.filter f res src dst left)) (u.inProgress n j) =
      ((u.validateCoef ch).writeCache ch f res).inProgress n (.sampleIn ch src dst left) := by
  simp [stepJob, stepCoefValid]

theorem stepJob_evalValid (dst : Nat) (rate freq : Word) :
    stepJob (.evalValid ch dst rate freq) (u.inProgress n j) =
      if !(u.kernel ch).valid then (u.raise .uninitCoef).setTicks n
      else if !responseDomain rate freq then (u.raise .domain).setTicks n
      else u.inProgress n (.magRead ch allCoefRegs noCoefs rate freq (.finish dst)) := by
  simp [stepJob]

theorem stepJob_curveValid (a left : Nat) :
    stepJob (.curveValid ch a left) (u.inProgress n j) =
      if !(u.kernel ch).valid then (u.raise .uninitCoef).setTicks n else u.inProgress n (.curveIn ch a left) := by
  simp [stepJob]

theorem stepJob_curveIn (a left : Nat) :
    stepJob (.curveIn ch a left) (u.inProgress n j) = (u.memRead a).2.inProgress n (.curveRate ch a left (u.memRead a).1) := by
  simp [stepJob]

theorem stepJob_curveRate (a left : Nat) (freq : Word) :
    stepJob (.curveRate ch a left freq) (u.inProgress n j) =
      if !responseDomain u.params.rate freq then (u.raise .domain).setTicks n
      else u.inProgress n (.magRead ch allCoefRegs noCoefs u.params.rate freq (.entry a left)) := by
  simp [stepJob]

theorem stepJob_rdRead_nil (got : Coefs) (dst : Nat) :
    stepJob (.rdRead ch [] got dst) (u.inProgress n j) = u.inProgress n (.rdWrite dst (coefWords got)) := by
  simp [stepJob]

theorem stepJob_rdWrite (dst : Nat) (w : Word) (ws : List Word) :
    stepJob (.rdWrite dst (w :: ws)) (u.inProgress n j) =
      if ws.isEmpty then ((u.memWrite dst w).complete 2).setTicks n else (u.memWrite dst w).inProgress n (.rdWrite (dst + 1) ws) := by
  simp [stepJob]

/-- What the port goes on with after an entry of a CURVE with `left` entries to do, that one included (R182, R213). -/
def Ended.afterEntry (a left : Nat) : Ended → State
  | .failed c t => (t.raise c).setTicks n
  | .done t => if left ≤ 1 then (t.complete 3).setTicks n else t.inProgress n (.curveIn ch (a + 2) (left - 1))

theorem stepMagnitude_finish (c : Coefs) (rate freq : Word) (dst : Nat) :
    stepMagnitude ch c rate freq (.finish dst) (u.inProgress n j) = ((writeMagnitude c rate freq dst u).record 3).setTicks n := by
  cases h : writeMagnitude c rate freq dst u <;> simp [stepMagnitude, h, Ended.inProgress, Ended.record]

theorem stepMagnitude_entry (c : Coefs) (rate freq : Word) (a left : Nat) :
    stepMagnitude ch c rate freq (.entry a left) (u.inProgress n j) = (writeMagnitude c rate freq (a + 1) u).afterEntry n ch a left := by
  cases h : writeMagnitude c rate freq (a + 1) u <;> simp [stepMagnitude, h, Ended.inProgress, Ended.afterEntry]

end

/-! ## PROCESS and CALC (R131, R132, R155) -/

/-- The samples, one access at a time, are the sample loop (R155, R156). -/
theorem reaches_samples (left : Nat) (ch : BitVec 8) (src dst n : Nat) (u : State) :
    (u.inProgress n (.sampleIn ch src dst (left + 1))).reaches ((State.samples ch src dst (left + 1) u).complete 4) := by
  induction left generalizing src dst u with
  | zero => exact .step (stepJob_sampleIn ..) (.last (stepJob_sampleOut ..))
  | succ left ih => exact .step (stepJob_sampleIn ..) (.step (stepJob_sampleOut ..) (ih (src + 1) (dst + 1) (u.sample ch src dst)))

/-- The state in which a coefficient write is left to its sixth step: the values drawn and all five registers written (R9, R131). -/
def State.coefRegsWritten (ch : BitVec 8) (f res : Dword) (s : State) : State :=
  (s.freshCoefs (coefFn s.cfg.expForm f res)).2.writeCoefRegs ch (s.freshCoefs (coefFn s.cfg.expForm f res)).1

/-- A coefficient write that a command begins comes to its sixth step (R131). -/
theorem reaches_beginCoefWrite {ch : BitVec 8} {f res : Dword} {next : AfterCoef} {s t : State} (hch : ch.toNat < s.nch)
    (h : ∀ n, ((s.coefRegsWritten ch f res).inProgress n (.coefWrite ch [] next)).reaches t) :
    (s.beginCoefWrite ch f res next).reaches t := by
  obtain ⟨k, hk⟩ := s.freshCoefs_state (coefFn s.cfg.expForm f res)
  have hnch : ch.toNat < (s.freshCoefs (coefFn s.cfg.expForm f res)).2.nch := by rwa [hk, State.setDraws_nch]
  have hbegin : s.beginCoefWrite ch f res next =
    (s.freshCoefs (coefFn s.cfg.expForm f res)).2.setJob (.coefWrite ch (coefTodo (s.freshCoefs (coefFn s.cfg.expForm f res)).1) next) := rfl
  rw [State.coefRegsWritten] at h
  generalize s.freshCoefs (coefFn s.cfg.expForm f res) = c at h hnch hbegin
  rw [hbegin, State.setJob_eq_inProgress]
  exact reaches_coefWrite _ _ _ hnch (Coefs.pending_coefTodo _ _) h

theorem reaches_calc {ch : BitVec 8} {s : State} (hch : ch.toNat < s.nch) (f res : Dword) :
    (startCalc ch f res s).reaches ((calcRule ch f res s).record 5) := by
  unfold startCalc calcRule
  split_ifs
  · exact reaches_beginCoefWrite hch fun n => .last (stepJob_coefValid_finish ..)
  · exact .refl _

theorem reaches_process {ch : BitVec 8} {s : State} (hch : ch.toNat < s.nch) (src dst n : Nat) :
    (startProcess ch src dst n s).reaches ((processRule ch src dst n s).record 4) := by
  unfold startProcess processRule
  split_ifs with hn
  · exact .refl _
  · exact .refl _
  · obtain ⟨left, rfl⟩ := Nat.exists_eq_succ_of_ne_zero hn
    cases preamble s.params with
    | error c => exact .refl _
    | ok a =>
      obtain ⟨f, res⟩ := a
      simp only [State.recompute]
      split_ifs
      · exact reaches_beginCoefWrite hch fun n => .step (stepJob_coefValid_filter ..) (reaches_samples ..)
      · exact reaches_samples left ch src dst s.ticks s

/-! ## EVAL and CURVE (R181, R182, R184) -/

/-- The coefficient reads of `MAG` come to the step of its magnitude, with the channel's coefficients (R184). -/
theorem reaches_magRead {ch : BitVec 8} {rate freq : Word} {next : AfterMag} {t : State} (n : Nat) (u : State)
    (h : ∀ n j, (stepMagnitude ch (u.kernel ch).coef rate freq next (u.inProgress n j)).reaches t) :
    (u.inProgress n (.magRead ch allCoefRegs noCoefs rate freq next)).reaches t :=
  reaches_coefRead (fun todo got => .magRead ch todo got rate freq next) (fun _ _ _ _ => rfl) allCoefRegs noCoefs n u
    (Coefs.gathered_all _ _) fun n => .step rfl (h n _)

theorem reaches_eval (ch : BitVec 8) (freq : Word) (dst : Nat) (s : State) :
    (startEval ch freq dst s).reaches ((evalRule ch freq dst s).record 3) := by
  unfold startEval evalRule
  split_ifs with hrange hrate hvalid hdomain
  · exact .refl _
  · exact .refl _
  all_goals refine .step (n := s.ticks) (stepJob_evalValid ..) ?_
  · rw [if_pos hvalid]
    exact .of_setTicks s.ticks _
  · rw [if_neg hvalid, if_pos hdomain]
    exact .of_setTicks s.ticks _
  · rw [if_neg hvalid, if_neg hdomain]
    refine reaches_magRead _ _ fun n j => ?_
    rw [stepMagnitude_finish]
    exact .of_setTicks n _

/-- An entry of a CURVE, one access at a time, is the entry as a whole (R182, R185). -/
theorem reaches_curveEntry {ch : BitVec 8} {a left : Nat} {u t : State} (n : Nat)
    (h : ∀ n, ((curveEntry ch a u).afterEntry n ch a left).reaches t) : (u.inProgress n (.curveIn ch a left)).reaches t := by
  have hentry : curveEntry ch a u = if !responseDomain (u.memRead a).2.params.rate (u.memRead a).1 then .failed .domain (u.memRead a).2
    else writeMagnitude ((u.memRead a).2.kernel ch).coef (u.memRead a).2.params.rate (u.memRead a).1 (a + 1) (u.memRead a).2 := rfl
  refine .step (stepJob_curveIn ..) (.step (stepJob_curveRate ..) ?_)
  split_ifs at hentry ⊢ <;> rw [hentry] at h
  · exact h n
  · refine reaches_magRead _ _ fun n j => ?_
    rw [stepMagnitude_entry]
    exact h n

/-- The entries of a CURVE, one access at a time, are its entries as a whole (R182). -/
theorem reaches_curveEntries (left : Nat) (ch : BitVec 8) (a n : Nat) (u : State) :
    (u.inProgress n (.curveIn ch a (left + 1))).reaches ((curveEntries ch a (left + 1) u).record 3) := by
  induction left generalizing a n u with
  | zero =>
    refine reaches_curveEntry n fun n => ?_
    rw [curveEntries]
    cases curveEntry ch a u <;> exact .of_setTicks n _
  | succ left ih =>
    refine reaches_curveEntry n fun n => ?_
    rw [curveEntries]
    cases curveEntry ch a u with
    | failed c t => exact .of_setTicks n _
    | done t => exact ih (a + 2) n t

theorem reaches_curve (ch : BitVec 8) (a n : Nat) (s : State) : (startCurve ch a n s).reaches ((curveRule ch a n s).record 3) := by
  unfold startCurve curveRule
  split_ifs with hn hrange hrate hvalid
  · exact .refl _
  · exact .refl _
  · exact .refl _
  all_goals refine .step (n := s.ticks) (stepJob_curveValid ..) ?_
  · rw [if_pos hvalid]
    exact .of_setTicks s.ticks _
  · rw [if_neg hvalid]
    obtain ⟨left, rfl⟩ := Nat.exists_eq_succ_of_ne_zero hn
    exact reaches_curveEntries left ch a s.ticks s

/-! ## RDCOEF (R136) -/

/-- The words of RDCOEF, one write at a time, are its writes as a whole (R136). -/
theorem reaches_rdWrite (w : Word) (ws : List Word) (dst n : Nat) (u : State) :
    (u.inProgress n (.rdWrite dst (w :: ws))).reaches ((State.memWrites dst (w :: ws) u).complete 2) := by
  induction ws generalizing w dst u with
  | nil => exact .last (stepJob_rdWrite ..)
  | cons v ws ih => exact .step (stepJob_rdWrite ..) (ih v (dst + 1) (u.memWrite dst w))

theorem reaches_rdcoef (ch : BitVec 8) (dst : Nat) (s : State) : (startRdcoef ch dst s).reaches ((rdcoefRule ch dst s).record 2) := by
  unfold startRdcoef rdcoefRule
  split_ifs
  · exact .refl _
  · exact .refl _
  · exact reaches_coefRead (fun todo got => .rdRead ch todo got dst) (fun _ _ _ _ => rfl) allCoefRegs noCoefs s.ticks s
      (Coefs.gathered_all _ _) fun n => .step (stepJob_rdRead_nil ..) (reaches_rdWrite ..)

/-! ## Every command -/

theorem reaches_command {i : Instr} {s : State} (hf : headerFault s.cur s.nch i.header = none) :
    (startCommand i s).reaches ((commandRule i s).record i.len) := by
  unfold startCommand
  rw [hf]
  cases i with
  | wrp sel value => exact .refl _
  | process ch sil src dst n => exact reaches_process (lt_nch_of_headerFault hf nofun) _ _ _
  | reset ch => exact .refl _
  | calcCoef ch f res => exact reaches_calc (lt_nch_of_headerFault hf nofun) f res
  | eval ch freq dst => exact reaches_eval ch freq _ s
  | curve ch a n => exact reaches_curve ch _ _ s
  | rdcoef ch dst => exact reaches_rdcoef ch _ s

/-- A whole command leaves no command in progress on its port (R112, R212). -/
theorem exec_job_none {i : Instr} {s t : State} (h : exec i s = .next t) : (t.portState s.cur).job = none := by
  rcases exec_cases h with ⟨c, -, rfl⟩ | ⟨hf, c, u, hr, rfl⟩ | ⟨hf, u, hr, rfl⟩
  · rw [State.portState_raise_cur]
  · have hw := commandRule_worked hf
    rw [hr] at hw
    rw [← hw.2.cur, State.portState_raise_cur]
  · have hw := commandRule_worked hf
    rw [hr] at hw
    rw [← State.Worked.cur hw, State.portState_complete_cur]

theorem startCommand_reaches {i : Instr} {s t : State} (h : exec i s = .next t) : (startCommand i s).reaches t := by
  cases hf : headerFault s.cur s.nch i.header with
  | some c =>
    rw [exec_eq_issue, State.issue_fault hf] at h
    cases h
    unfold startCommand
    rw [hf]
    exact .refl _
  | none =>
    rw [exec_eq_record hf] at h
    cases h
    exact reaches_command hf

/-- Settles O14: `startCommand_reaches`, and the whole command leaves its port without one in progress. -/
theorem atomicStepsReachWholeCommand : Obligations.AtomicStepsReachWholeCommand := by
  intro i s t _ h
  obtain ⟨k, hk⟩ := startCommand_reaches h
  refine ⟨k, ?_, hk⟩
  rw [← State.setTicks_portState _ 0, hk, State.setTicks_portState]
  exact exec_job_none h

end Sys2Proof.Machine
end

section
/-! PROOFS. The encoding (R100–R113): a header word and its fields, which header words are commands, decoding and encoding as one
relation, and what a port does with a header that is no command or whose operand words are not all there. -/

namespace Sys2Proof

/-! ## The fields of a header word (R101) -/

/-- A header word is its four fields (R101). -/
theorem header_fields (h : Word) : headerOpc h ++ headerCh h ++ headerSel h ++ headerFlags h = h := by
  have h16 : headerOpc h ++ headerCh h = h.extractLsb' 16 16 := BitVec.extractLsb'_append_extractLsb'_eq_extractLsb' rfl
  have h8 : headerOpc h ++ headerCh h ++ headerSel h = h.extractLsb' 8 24 := by
    rw [h16]; exact BitVec.extractLsb'_append_extractLsb'_eq_extractLsb' rfl
  rw [h8]
  exact (BitVec.extractLsb'_append_extractLsb'_eq_extractLsb' rfl).trans BitVec.extractLsb'_eq_self

theorem word_eq_iff_fields {h w : Word} :
    h = w ↔ headerOpc h = headerOpc w ∧ headerCh h = headerCh w ∧ headerSel h = headerSel w ∧ headerFlags h = headerFlags w := by
  constructor
  · rintro rfl
    exact ⟨rfl, rfl, rfl, rfl⟩
  · rintro ⟨ho, hc, hs, hf⟩
    rw [← header_fields h, ho, hc, hs, hf, header_fields]

@[simp] theorem headerOpc_and (h w : Word) : headerOpc (h &&& w) = headerOpc h &&& headerOpc w := BitVec.extractLsb'_and
@[simp] theorem headerCh_and (h w : Word) : headerCh (h &&& w) = headerCh h &&& headerCh w := BitVec.extractLsb'_and
@[simp] theorem headerSel_and (h w : Word) : headerSel (h &&& w) = headerSel h &&& headerSel w := BitVec.extractLsb'_and
@[simp] theorem headerFlags_and (h w : Word) : headerFlags (h &&& w) = headerFlags h &&& headerFlags w := BitVec.extractLsb'_and

@[simp] theorem headerFlags_encodeHeader (hd : Header) : headerFlags (encodeHeader hd) = 0#7 ++ BitVec.ofBool hd.sil :=
  BitVec.extractLsb'_append_eq_right

@[simp] theorem headerSel_encodeHeader (hd : Header) : headerSel (encodeHeader hd) = hd.sel :=
  (BitVec.extractLsb'_append_eq_of_le (by decide)).trans BitVec.extractLsb'_append_eq_right

@[simp] theorem headerCh_encodeHeader (hd : Header) : headerCh (encodeHeader hd) = hd.ch :=
  (BitVec.extractLsb'_append_eq_of_le (by decide)).trans <|
    (BitVec.extractLsb'_append_eq_of_le (by decide)).trans BitVec.extractLsb'_append_eq_right

@[simp] theorem headerOpc_encodeHeader (hd : Header) : headerOpc (encodeHeader hd) = hd.op.code :=
  (BitVec.extractLsb'_append_eq_of_le (by decide)).trans <|
    (BitVec.extractLsb'_append_eq_of_le (by decide)).trans BitVec.extractLsb'_append_eq_left

/-! ## Opcodes (R102, R109) -/

@[simp] theorem Op.ofCode_code (op : Op) : Op.ofCode op.code = some op := by cases op <;> rfl

theorem Op.ofCode_eq_some_iff {c : BitVec 8} {op : Op} : Op.ofCode c = some op ↔ c = op.code := by
  refine ⟨fun h => ?_, fun h => h ▸ op.ofCode_code⟩
  unfold Op.ofCode at h
  split_ifs at h <;> cases h <;> assumption

/-- The opcode values with no command are those of R109's list. -/
theorem Op.ofCode_eq_none_iff (c : BitVec 8) : Op.ofCode c = none ↔ illegalOpcode c.toNat := by
  have hlt := c.isLt
  have hne : Op.ofCode c = none ↔ ¬(c.toNat = 0x01 ∨ c.toNat = 0x10 ∨ c.toNat = 0x11 ∨ c.toNat = 0x12 ∨
      c.toNat = 0x20 ∨ c.toNat = 0x21 ∨ c.toNat = 0x22) := by
    simp [Op.ofCode, ite_eq_iff, ← BitVec.toNat_inj]
  rw [hne, illegalOpcode]
  omega

/-! ## The header checks on the word alone (R109, R110) -/

theorem decodeHeader_eq_illegal_iff (h : Word) : decodeHeader h = .error .illegalOpcode ↔ illegalOpcode (headerOpc h).toNat := by
  rw [← Op.ofCode_eq_none_iff]
  unfold decodeHeader
  cases Op.ofCode (headerOpc h) with
  | none => simp
  | some op => simp only [reduceCtorEq, iff_false]; split_ifs <;> simp

theorem decodeHeader_of_code {h : Word} {op : Op} (ho : headerOpc h = op.code) :
    decodeHeader h =
      if reservedNonzero op (headerCh h) (headerSel h) (headerFlags h) then .error .reservedField
      else .ok ⟨op, headerCh h, headerSel h, (headerFlags h).getLsbD 0⟩ := by
  simp only [decodeHeader, ho, Op.ofCode_code]

/-- Everything that makes a header word a command's: its opcode is legal and its reserved fields are 0. -/
theorem decodeHeader_ok_cases {h : Word} {hd : Header} (hok : decodeHeader h = .ok hd) :
    headerOpc h = hd.op.code ∧ reservedNonzero hd.op (headerCh h) (headerSel h) (headerFlags h) = false ∧
      headerCh h = hd.ch ∧ headerSel h = hd.sel ∧ (headerFlags h).getLsbD 0 = hd.sil := by
  cases ho : Op.ofCode (headerOpc h) with
  | none => simp only [decodeHeader, ho, reduceCtorEq] at hok
  | some op =>
    have hc := Op.ofCode_eq_some_iff.1 ho
    rw [decodeHeader_of_code hc] at hok
    split_ifs at hok with hr
    cases hok
    exact ⟨hc, Bool.not_eq_true _ ▸ hr, rfl, rfl, rfl⟩

/-- The fields of the masks of R102's second table. -/
theorem headerMask_fields (op : Op) :
    headerOpc (headerMask op) = 0xFF ∧ headerCh (headerMask op) = (if op = .wrp then 0xFF else 0) ∧
      headerSel (headerMask op) = (if op = .wrp then 0 else 0xFF) ∧
      headerFlags (headerMask op) = (if op = .process then 0xFE else 0xFF) := by
  cases op <;> decide

/-- The fields of the match values of R102's second table. -/
theorem headerMatch_fields (op : Op) :
    headerOpc (headerMatch op) = op.code ∧ headerCh (headerMatch op) = 0 ∧ headerSel (headerMatch op) = 0 ∧
      headerFlags (headerMatch op) = 0 := by
  cases op <;> decide

/-- The mask and match of R102's second table test the opcode and the reserved fields. -/
theorem and_headerMask_eq_iff (h : Word) (op : Op) :
    h &&& headerMask op = headerMatch op ↔
      headerOpc h = op.code ∧ reservedNonzero op (headerCh h) (headerSel h) (headerFlags h) = false := by
  obtain ⟨mo, mc, ms, mf⟩ := headerMask_fields op
  obtain ⟨vo, vc, vs, vf⟩ := headerMatch_fields op
  have hall (x : BitVec 8) : x &&& 0xFF = x := BitVec.and_allOnes
  have hnone (x : BitVec 8) : x &&& 0 = 0 := BitVec.and_zero
  have hhigh (fl : BitVec 8) : fl &&& 0xFE = 0 ↔ fl.extractLsb' 1 7 = 0 := by revert fl; decide
  rw [word_eq_iff_fields, headerOpc_and, headerCh_and, headerSel_and, headerFlags_and, mo, mc, ms, mf, vo, vc, vs, vf, hall]
  refine and_congr_right fun _ => ?_
  cases op <;> simp only [reservedNonzero, reduceCtorEq, if_true, if_false, hall, hnone, hhigh, true_and,
    Bool.or_eq_false_iff, decide_eq_false_iff_not, not_not]

/-! ## Headers of commands -/

/-- The fields of a header that its command has no use for are 0 (R106, R107, R108). -/
def Header.reservedZero (hd : Header) : Prop :=
  match hd.op with
  | .wrp => hd.ch = 0 ∧ hd.sil = false
  | .process => hd.sel = 0
  | .reset | .calcCoef | .eval | .curve | .rdcoef => hd.sel = 0 ∧ hd.sil = false

theorem Instr.header_reservedZero (i : Instr) : i.header.reservedZero := by
  cases i <;> simp [Instr.header, Header.reservedZero]

theorem getLsbD_zero_append_ofBool (b : Bool) : (0#7 ++ BitVec.ofBool b).getLsbD 0 = b := by cases b <;> rfl

/-- `FLAGS` with nothing in its reserved bits is `SIL` alone (R108). -/
theorem flags_eq_of_high_zero {fl : BitVec 8} (h : fl.extractLsb' 1 7 = 0#7) : fl = 0#7 ++ BitVec.ofBool (fl.getLsbD 0) := by
  revert fl; decide

/-- Of any opcode, `FLAGS` that passes the reserved-field check is `SIL` alone; all of it is reserved but for PROCESS. -/
theorem flags_eq_of_reservedNonzero {op : Op} {ch sel fl : BitVec 8} (h : reservedNonzero op ch sel fl = false) :
    fl = 0#7 ++ BitVec.ofBool (fl.getLsbD 0) := by
  have hz : fl = 0 ∨ fl.extractLsb' 1 7 = 0 := by cases op <;> simp_all [reservedNonzero]
  rcases hz with rfl | hz
  · rfl
  · exact flags_eq_of_high_zero hz

/-- The reserved fields of an encoded header are 0 exactly when the header's unused fields are. -/
theorem reservedNonzero_eq_false_iff (hd : Header) :
    reservedNonzero hd.op hd.ch hd.sel (0#7 ++ BitVec.ofBool hd.sil) = false ↔ hd.reservedZero := by
  obtain ⟨op, ch, sel, sil⟩ := hd
  cases op <;> cases sil <;> simp [reservedNonzero, Header.reservedZero]

/-- The header words of commands are the encodings of headers whose unused fields are 0. -/
theorem decodeHeader_eq_ok_iff {h : Word} {hd : Header} : decodeHeader h = .ok hd ↔ h = encodeHeader hd ∧ hd.reservedZero := by
  constructor
  · intro hok
    obtain ⟨ho, hr, hch, hsel, hsil⟩ := decodeHeader_ok_cases hok
    have hfl := flags_eq_of_reservedNonzero hr
    rw [hsil] at hfl
    rw [hch, hsel, hfl, reservedNonzero_eq_false_iff] at hr
    exact ⟨word_eq_iff_fields.2 (by simp [ho, hch, hsel, hfl]), hr⟩
  · rintro ⟨rfl, hz⟩
    simp only [decodeHeader_of_code (headerOpc_encodeHeader hd), headerCh_encodeHeader, headerSel_encodeHeader,
      headerFlags_encodeHeader, (reservedNonzero_eq_false_iff hd).2 hz, getLsbD_zero_append_ofBool, Bool.false_eq_true, if_false]

/-! ## Operand words (R104, R105) -/

@[simp] theorem joinWords_lowWord_highWord (v : Dword) : joinWords (lowWord v) (highWord v) = v :=
  (BitVec.extractLsb'_append_extractLsb'_eq_extractLsb' rfl).trans BitVec.extractLsb'_eq_self

@[simp] theorem lowWord_joinWords (wlo whi : Word) : lowWord (joinWords wlo whi) = wlo := BitVec.extractLsb'_append_eq_right

@[simp] theorem highWord_joinWords (wlo whi : Word) : highWord (joinWords wlo whi) = whi := BitVec.extractLsb'_append_eq_left

theorem operands_operandWords (i : Instr) (rest : List Word) : operands i.header (i.operandWords ++ rest) = some (i, rest) := by
  cases i <;> simp [operands, Instr.header, Instr.operandWords]

/-- What a header whose unused fields are 0 makes of operand words has that header and those words, so nothing of them is lost. -/
theorem operands_eq_some {hd : Header} {ws rest : List Word} {i : Instr} (hz : hd.reservedZero)
    (h : operands hd ws = some (i, rest)) : i.header = hd ∧ ws = i.operandWords ++ rest := by
  obtain ⟨op, ch, sel, sil⟩ := hd
  unfold operands at h
  split at h <;> cases h <;> simp_all [Header.reservedZero, Instr.header, Instr.operandWords]

/-! ## Commands -/

/-- Decoding and encoding are one relation (R100 to R105, R110). -/
theorem decode_eq_ok_iff {ws rest : List Word} {i : Instr} : decode ws = .ok i rest ↔ ws = encode i ++ rest := by
  constructor
  · intro h
    match ws with
    | [] => cases h
    | w :: ws =>
      rw [decode] at h
      split at h
      · cases h
      · next hd hok =>
        obtain ⟨rfl, hz⟩ := decodeHeader_eq_ok_iff.1 hok
        split at h
        · next ho =>
          cases h
          obtain ⟨rfl, rfl⟩ := operands_eq_some hz ho
          rfl
        · cases h
  · rintro rfl
    have hok := decodeHeader_eq_ok_iff.2 ⟨rfl, i.header_reservedZero⟩
    simp only [encode, List.cons_append, decode, hok, operands_operandWords]

/-- Settles O1: `decode_eq_ok_iff`. -/
theorem decodeInvertsEncode : Obligations.DecodeInvertsEncode := fun _ _ => decode_eq_ok_iff.2 rfl

/-- Settles O2: `decode_eq_ok_iff`. -/
theorem encodeInvertsDecode : Obligations.EncodeInvertsDecode := fun _ _ _ => decode_eq_ok_iff.1

/-- Settles O3: both sides say that the opcode is legal and the reserved fields are 0. -/
theorem headerAcceptedIffMatch : Obligations.HeaderAcceptedIffMatch := by
  intro h op
  rw [and_headerMask_eq_iff]
  constructor
  · rintro ⟨hd, hok, rfl⟩
    obtain ⟨ho, hr, -⟩ := decodeHeader_ok_cases hok
    exact ⟨ho, hr⟩
  · rintro ⟨ho, hr⟩
    exact ⟨_, (decodeHeader_of_code ho).trans (if_neg (by simp [hr])), rfl⟩

/-- Settles O6: `lowWord` and `highWord` take `joinWords` apart. -/
theorem binary64OperandOrder : Obligations.Binary64OperandOrder :=
  ⟨fun wlo whi => ⟨highWord_joinWords wlo whi, lowWord_joinWords wlo whi, joinWords_lowWord_highWord _⟩, rfl⟩

/-- Settles O7: the words are the encodings of the commands. -/
theorem specWordsDecode : Obligations.SpecWordsDecode := by
  refine ⟨?_, ?_, ?_, ?_, ?_, ?_, ?_⟩ <;> exact decode_eq_ok_iff.2 (by decide)

namespace Machine

/-! ## A port and the header it finds (R109 to R113) -/

section
variable {s : State} {p : Port}

theorem State.fetch_bad {e : DecodeError} {h : Word} {ws : List Word} (hfifo : (s.portState p).fifo = h :: ws)
    (he : decodeHeader h = .error e) : s.fetch p = .error (codeOfDecodeError e) := by
  simp only [State.fetch, hfifo, decode, he]

theorem State.fetch_short_fault {hd : Header} {c : ErrCode} (hshort : decode (s.portState p).fifo = .short hd)
    (hf : headerFault p s.nch hd = some c) : s.fetch p = .error c := by
  simp only [State.fetch, hshort, hf]

theorem State.fetch_short_good {hd : Header} (hshort : decode (s.portState p).fifo = .short hd)
    (hf : headerFault p s.nch hd = none) : s.fetch p = .wait := by
  simp only [State.fetch, hshort, hf]

/-- The step of a port that alone can move and finds a header error (R112). -/
theorem step_alone_error {c : ErrCode} (hr : s.ready = [.port p]) (hj : (s.portState p).job = none) (hf : s.fetch p = .error c) :
    step s = .next ((s.setCur p).raise c) := by
  simp only [step, hr, State.aloneStep, State.portStep, hj, hf]

theorem State.portReady_of_error {c : ErrCode} (he : (s.portState p).err = false) (hj : (s.portState p).job = none)
    (hf : s.fetch p = .error c) : s.portReady p = true := by
  simp only [State.portReady, he, hj, hf, Bool.not_false, Bool.and_self]

theorem State.not_portReady_of_wait (hj : (s.portState p).job = none) (hf : s.fetch p = .wait) : s.portReady p = false := by
  simp only [State.portReady, hj, hf, Bool.and_false]

/-- With no port halted and no agent able to move, a port that waits for operand words stops the machine (R113). -/
theorem step_operandsMissing_of_wait (hr : s.ready = []) (hR : s.portR.err = false) (hD : s.portD.err = false) (hf : s.fetch p = .wait) :
    step s = .fault .operandsMissing := by
  have hw : s.fetch .R = .wait ∨ s.fetch .D = .wait := by
    cases p with
    | R => exact .inl hf
    | D => exact .inr hf
  simp [step, hr, State.quiescent, hR, hD, hw]

end

/-- Settles O4: R109's list is the decoder's, and a port raises what the decoder finds. -/
theorem illegalOpcodeRaised : Obligations.IllegalOpcodeRaised :=
  ⟨decodeHeader_eq_illegal_iff,
    fun _ _ h _ hr hj hfifo hi => step_alone_error hr hj (State.fetch_bad hfifo ((decodeHeader_eq_illegal_iff h).2 hi)),
    .inl rfl⟩

/-- Settles O5: of a legal opcode, the mask test fails exactly on a nonzero reserved field. -/
theorem reservedFieldRaised : Obligations.ReservedFieldRaised := by
  intro s p h ws op hr hj hfifo ho hm
  have hres : reservedNonzero op (headerCh h) (headerSel h) (headerFlags h) = true := by
    by_contra hz
    exact hm ((and_headerMask_eq_iff h op).2 ⟨ho, Bool.eq_false_of_not_eq_true hz⟩)
  exact step_alone_error hr hj (State.fetch_bad hfifo ((decodeHeader_of_code ho).trans (if_pos hres)))

/-- Settles O11: the port waits, and a machine that only waits is stuck. -/
theorem truncatedCommandWaits : Obligations.TruncatedCommandWaits := by
  intro s p hd hj hshort hf
  have hwait := State.fetch_short_good hshort hf
  exact ⟨State.not_portReady_of_wait hj hwait, fun hr hR hD => step_operandsMissing_of_wait hr hR hD hwait⟩

/-- Settles O12: the port finds the error with no operand word there. -/
theorem headerErrorNeverWaits : Obligations.HeaderErrorNeverWaits := by
  intro s p hd c he hj hshort hf
  have herr := State.fetch_short_fault hshort hf
  exact ⟨State.portReady_of_error he hj herr, fun hr => step_alone_error hr hj herr⟩

end Machine

end Sys2Proof
end

section
/-! PROOFS. The coefficient calculator (R130–R136): COEF as its listing, doubling in binary64 and the symmetry of the coefficients, CALC
and RDCOEF. -/

namespace Sys2Proof.Machine

/-! ## Doubling a magnitude (R5, R7, R8) -/

/-- A power of two times a magnitude is a magnitude, read as if the exponent had no largest value. -/
theorem FloatFmt.exists_units_two_pow_mul (F : FloatFmt) (j n : Nat) : ∃ n', F.units n' = 2 ^ j * F.units n := by
  obtain ⟨k, sig, rfl, hk, hs⟩ := F.exists_place n
  obtain ⟨n', hn'⟩ := F.exists_units_eq (k + j) hs
  exact ⟨n', by rw [hn', F.units_place hk hs.le]; ring⟩

/-- A value that is a magnitude exactly rounds to it, or to infinity where that is beyond the largest number. -/
theorem FloatFmt.IsNearest.eq_min_of_units_eq {F : FloatFmt} (hF : F.Proper) {y : ℝ} {r n : Nat} (h : F.IsNearest y r)
    (hy : y = F.units n) : r = min n F.infBits := by
  rcases Nat.lt_or_ge n F.infBits with hn | hn
  · rw [min_eq_left hn.le]
    exact h.eq_of_units_eq hn hy
  · rw [min_eq_right hn, h.eq_inf_iff hF]
    linarith [F.units_le_cast hn, F.units_le_cast (Nat.sub_le F.infBits 1)]

/-! ## Patterns that are no NaN, by sign and magnitude (R4) -/

/-- The pattern with a sign and a magnitude, an infinity from the largest magnitude on. -/
def clamped64 (s : Bool) (n : Nat) : Dword := BitVec.ofNat 64 (binary64.withSign s (min n binary64.infBits))

theorem clamped64_toNat (s : Bool) (n : Nat) : (clamped64 s n).toNat = binary64.withSign s (min n binary64.infBits) :=
  (BitVec.toNat_ofNat _ _).trans
    (Nat.mod_eq_of_lt (FloatFmt.withSign_lt s ((min_le_right _ _).trans_lt binary64.infBits_lt_signBit)))

theorem clamped64_msb (s : Bool) (n : Nat) : (clamped64 s n).msb = s := by
  rw [← negative_toNat64, clamped64_toNat]
  exact FloatFmt.negative_withSign s ((min_le_right _ _).trans_lt binary64.infBits_lt_signBit)

theorem clamped64_magnitude (s : Bool) (n : Nat) : (clamped64 s n).toNat % binary64.signBit = min n binary64.infBits := by
  rw [clamped64_toNat]
  exact FloatFmt.withSign_mod s ((min_le_right _ _).trans_lt binary64.infBits_lt_signBit)

theorem isNaN64_clamped64 (s : Bool) (n : Nat) : isNaN64 (clamped64 s n) = false := by
  rw [Bool.eq_false_iff, ne_eq, isNaN64_iff, patternNaN_iff, clamped64_magnitude]
  exact not_lt.2 (min_le_right _ _)

theorem eq_clamped64_of_not_isNaN64 {a : Dword} (h : isNaN64 a = false) : a = clamped64 a.msb (a.toNat % binary64.signBit) := by
  rw [Bool.eq_false_iff, ne_eq, isNaN64_iff, patternNaN_iff, not_lt] at h
  rw [clamped64, min_eq_left h]
  exact eq_ofNat_withSign64 a

theorem clamped64_eq_of_infBits_le {s : Bool} {n : Nat} (h : binary64.infBits ≤ n) : clamped64 s n = pack64 (.inf s) := by
  rw [clamped64, min_eq_right h]
  rfl

theorem val64_clamped64_infinite {s : Bool} {n : Nat} (h : binary64.infBits ≤ n) : val64 (clamped64 s n) = .inf s := by
  have hinf : patternInfinite binary64 (clamped64 s n).toNat := by
    rw [patternInfinite_iff, clamped64_magnitude, min_eq_right h]
  rw [val64_inf hinf, clamped64_msb]

/-- A number unpacks to its sign and to the value of its magnitude. -/
theorem val64_clamped64_finite {s : Bool} {n : Nat} (h : n < binary64.infBits) :
    ∃ m e, val64 (clamped64 s n) = .fin s m e ∧ (m : ℝ) * 2 ^ e = binary64.units n * 2 ^ binary64.emin := by
  have hmag := clamped64_magnitude s n
  rw [min_eq_left h.le] at hmag
  obtain ⟨m, e, hv, -, hx⟩ := val64_fin ((patternFinite_iff _ _).2 (hmag.symm ▸ h))
  rw [patternValue_eq_units, negative_toNat64, hmag, FloatVal.value_fin, clamped64_msb] at hx
  have hval := congrArg (Rat.cast : ℚ → ℝ) (mul_left_cancel₀ (pow_ne_zero _ (by norm_num)) hx)
  push_cast at hval
  exact ⟨m, e, by rw [hv, clamped64_msb], hval.symm⟩

/-! ## Multiplication by a power of two (R5) -/

/-- Multiplication by `2 ^ j` keeps the sign and multiplies the magnitude exactly, up to infinity (R7). -/
theorem mul64_clamped64 {p : Dword} {j n n' : Nat} (hp : val64 p = .fin false (2 ^ 52) (j - 52))
    (hn : binary64.units n' = 2 ^ j * binary64.units n) (s : Bool) : mul64 p (clamped64 s n) = clamped64 s n' := by
  rcases Nat.lt_or_ge n binary64.infBits with h | h
  · obtain ⟨m, e, hv, hval⟩ := val64_clamped64_finite (s := s) h
    have hy : ((2 ^ 52 * m : ℕ) : ℝ) * 2 ^ ((j : ℤ) - 52 + e) / 2 ^ binary64.emin = binary64.units n' := by
      rw [hn, div_eq_iff (by positivity), zpow_add₀ two_ne_zero, zpow_sub₀ two_ne_zero, zpow_natCast]
      push_cast
      rw [mul_assoc _ _ ((2 : ℝ) ^ binary64.emin), ← hval]
      norm_num
      ring
    have hround := ((binary64.standsFor_self (2 ^ 52 * m)).isNearest_roundMag binary64_proper _).eq_min_of_units_eq binary64_proper hy
    rw [mul64, hp, hv, FloatVal.mul, Bool.false_xor, pack64, FloatFmt.pack, hround]
    rfl
  · have hle : binary64.units n ≤ binary64.units n' := hn ▸ Nat.le_mul_of_pos_left _ (by positivity)
    have h' : binary64.infBits ≤ n' := h.trans (binary64.units_strictMono.le_iff_le.1 hle)
    rw [mul64, hp, val64_clamped64_infinite h, FloatVal.mul, if_neg (by decide), Bool.false_xor, clamped64_eq_of_infBits_le h']

theorem val64_two : val64 two = .fin false (2 ^ 52) ((1 : ℕ) - 52) := by decide
theorem val64_four : val64 four = .fin false (2 ^ 52) ((2 : ℕ) - 52) := by decide

/-- Two doublings are one multiplication by four, also where they overflow (R133). -/
theorem mul64_two_two {a : Dword} (h : isNaN64 a = false) : mul64 two (mul64 two a) = mul64 four a := by
  rw [eq_clamped64_of_not_isNaN64 h]
  obtain ⟨n₁, h₁⟩ := binary64.exists_units_two_pow_mul 1 (a.toNat % binary64.signBit)
  obtain ⟨n₂, h₂⟩ := binary64.exists_units_two_pow_mul 1 n₁
  have h₄ : binary64.units n₂ = 2 ^ 2 * binary64.units (a.toNat % binary64.signBit) := by rw [h₂, h₁]; ring
  rw [mul64_clamped64 val64_two h₁, mul64_clamped64 val64_two h₂, mul64_clamped64 val64_four h₄]

/-- A number times a power of two is a number or an infinity (R5). -/
theorem isNaN64_mul64_powerOfTwo {p a : Dword} {j : Nat} (hp : val64 p = .fin false (2 ^ 52) (j - 52)) (h : isNaN64 a = false) :
    isNaN64 (mul64 p a) = false := by
  rw [eq_clamped64_of_not_isNaN64 h]
  obtain ⟨n, hn⟩ := binary64.exists_units_two_pow_mul j (a.toNat % binary64.signBit)
  rw [mul64_clamped64 hp hn, isNaN64_clamped64]

theorem isNaN64_mul64_right {a : Dword} (p : Dword) (h : isNaN64 a = true) : isNaN64 (mul64 p a) = true := by
  obtain ⟨-, hmul, -⟩ := nan_arithmetic (a := p) (.inr ((isNaN64_iff a).1 h))
  exact (isNaN64_iff _).2 hmul

theorem eq64_self {a : Dword} (h : isNaN64 a = false) : eq64 a a = true := (eq64_iff h h).2 rfl

/-! ## COEF (R130, R133) -/

/-- Settles O38: `coefFn`, its named parts and its constants are the listing written out. -/
theorem coefFollowsListing : Obligations.CoefFollowsListing := by
  intro form f res
  cases form <;> rfl

/-- Settles O39: `a0` and `a2` are one product, and `4.0 * c3` is `2.0 * (2.0 * c3)`; a NaN `c3` makes all three NaNs. -/
theorem coefficientSymmetry : Obligations.CoefficientSymmetry := by
  intro form f res c c3
  refine ⟨fun h => ?_, fun h => ⟨?_, ?_⟩⟩
  · have ha1 : c.a1 = mul64 two c.a0 := (mul64_two_two h).symm
    exact ⟨ha1 ▸ eq64_self (isNaN64_mul64_powerOfTwo val64_four h), eq64_self (isNaN64_mul64_powerOfTwo val64_two h)⟩
  · exact (compare_nan (.inl (isNaN64_mul64_right four h))).2.1
  · exact (compare_nan (.inl (isNaN64_mul64_right two h))).2.1

/-! ## CALC (R131, R132) -/

/-- A coefficient write replaces the coefficients of one channel and makes them valid (R131). -/
theorem State.writeCoef_kernels {s : State} {ch : BitVec 8} (hch : ch.toNat < s.nch) (c : Coefs) :
    (s.writeCoef ch c).kernels = s.kernels.set ch.toNat { s.kernel ch with coef := (s.freshCoefs c).1, valid := true } := by
  obtain ⟨n, hn⟩ := s.freshCoefs_state c
  have hch' : ch.toNat < s.kernels.length := hch
  rw [State.writeCoef_eq, State.writeCoefRegs_eq, hn]
  simp [State.validateCoef, State.setKernel, State.kernel, hch']

theorem State.writeCoef_mem (s : State) (ch : BitVec 8) (c : Coefs) : (s.writeCoef ch c).mem = s.mem := by
  obtain ⟨n, hn⟩ := s.freshCoefs_state c
  rw [State.writeCoef_eq, hn]
  rfl

theorem exec_calcCoef {ch : BitVec 8} {f res : Dword} {s : State} (hcur : s.cur = .R) (hch : ch.toNat < s.nch)
    (hdom : calcDomain f res = true) :
    exec (.calcCoef ch f res) s = .next ((s.writeCoef ch (coefFn s.cfg.expForm f res)).complete 5) := by
  have hr : commandRule (.calcCoef ch f res) s = .done (s.writeCoef ch (coefFn s.cfg.expForm f res)) := if_pos hdom
  have hf : headerFault s.cur s.nch (Instr.calcCoef ch f res).header = none := headerFault_none nofun (.inl hcur) hch
  rw [exec_eq_record hf, hr]
  rfl

/-- Settles O40: in its domain CALC is one coefficient write, completed. -/
theorem calcWritesCoefficients : Obligations.CalcWritesCoefficients := by
  intro ch f res s hcur hch hpos hle hfin
  have hdom : calcDomain f res = true := by rw [calcDomain, hpos, hle, hfin]; rfl
  have hout := s.writeCoef_sameOutside ch (coefFn s.cfg.expForm f res)
  have hkernels := State.writeCoef_kernels hch (coefFn s.cfg.expForm f res)
  refine ⟨_, exec_calcCoef hcur hch hdom, completed_of_sameOutside hout 5, keepsOthers_complete hout 5,
    kernelsExcept_of_set ((State.complete_kernels _ 5).trans hkernels), ?_⟩
  rw [State.complete_kernel, State.complete_ncoef, State.complete_params, State.complete_mem, State.kernel_of_set hch hkernels]
  exact ⟨s.freshCoefs_writtenAs _, rfl, s.writeCoef_ncoef ch _, hout.params, s.writeCoef_mem ch _⟩

/-! ## RDCOEF (R136) -/

theorem State.memWrites_readsTo (ws : List Word) (a : Nat) (s : State) : s.readsTo (State.memWrites a ws s) := by
  rw [State.memWrites_eq]
  exact .memory s s.draws _

theorem State.memWrites_draws (ws : List Word) (a : Nat) (s : State) : (State.memWrites a ws s).draws = s.draws := by
  rw [State.memWrites_eq, State.setMem_draws]

/-- The low and the high word of the coefficient `j` in the order of R34 are the words `2j` and `2j + 1` (R73). -/
theorem coefWords_getElem? {c : Coefs} {j : Nat} {v : Dword} (h : [c.a0, c.a1, c.a2, c.b1, c.b2][j]? = some v) :
    j < 5 ∧ (coefWords c)[2 * j]? = some (lowWord v) ∧ (coefWords c)[2 * j + 1]? = some (highWord v) := by
  obtain ⟨hj, rfl⟩ := List.getElem?_eq_some_iff.1 h
  have hj' : j < 5 := hj
  interval_cases j <;> exact ⟨by decide, rfl, rfl⟩

theorem exec_rdcoef {ch : BitVec 8} {dst : Word} {s : State} (hch : ch.toNat < s.nch) (hdst : dst.toNat + 10 ≤ s.cfg.memWords)
    (hvalid : (s.kernel ch).valid = true) :
    exec (.rdcoef ch dst) s = .next ((State.memWrites dst.toNat (coefWords (s.kernel ch).coef) s).complete 2) := by
  have hr : commandRule (.rdcoef ch dst) s = .done (State.memWrites dst.toNat (coefWords (s.kernel ch).coef) s) := by
    simp [commandRule, rdcoefRule, State.inRange, hdst, hvalid]
  have hf : headerFault s.cur s.nch (Instr.rdcoef ch dst).header = none := headerFault_none nofun (.inr rfl) hch
  rw [exec_eq_record hf, hr]
  rfl

/-- Settles O41: RDCOEF is a run of ten writes, which `memWord?_memWrites` reads back. -/
theorem rdcoefCopiesCoefficients : Obligations.RdcoefCopiesCoefficients := by
  intro ch dst s hch hdst hvalid
  obtain ⟨hout, hkernels, hncoef⟩ := s.memWrites_readsTo (coefWords (s.kernel ch).coef) dst.toNat
  have hlen : (coefWords (s.kernel ch).coef).length = 10 := rfl
  refine ⟨_, exec_rdcoef hch hdst hvalid, completed_of_sameOutside hout 2, keepsOthers_complete hout 2, ?_⟩
  rw [memoryExcept, State.complete_mem, State.complete_kernels, State.complete_ncoef, State.complete_params, State.complete_draws]
  refine ⟨fun j v hv => ?_, fun y hy => ?_, hkernels, hncoef, hout.params, s.memWrites_draws _ _⟩
  · obtain ⟨hj, hlow, hhigh⟩ := coefWords_getElem? hv
    exact ⟨(State.memWord?_memWrites _ _ (2 * j) s (by omega)).trans hlow,
      (State.memWord?_memWrites _ _ (2 * j + 1) s (by omega)).trans hhigh⟩
  · exact State.memByte?_memWrites_ne _ _ y s (by omega)

end Sys2Proof.Machine
end

section
/-! PROOFS. PROCESS as the recurrence of R155 run over its buffer (R155, R156); a PROCESS of no samples (R151); every command answers. -/

namespace Sys2Proof.Machine

/-! ## Every command, and a PROCESS of no samples (R151) -/

/-- Settles O13: the meaning of every command is a next state, that of its rule behind the header checks. -/
theorem everyCommandAnswers : Obligations.EveryCommandAnswers := fun i s => ⟨_, exec_eq_issue i s⟩

/-- Settles O44: the rule of a PROCESS with `n` = 0 is done before it checks or reads anything. -/
theorem zeroLengthProcess : Obligations.ZeroLengthProcess := by
  intro ch sil src dst s hcur hch
  have hf : headerFault s.cur s.nch (Instr.process ch sil src dst 0).header = none := headerFault_none nofun (.inl hcur) hch
  have hr : commandRule (.process ch sil src dst 0) s = .done s := by rw [commandRule, processRule, if_pos (show (0 : Word).toNat = 0 from rfl)]
  refine ⟨s.complete 4, ?_, completed_of_sameOutside (.refl s) 4, keepsOthers_complete (.refl s) 4, ?_⟩
  · rw [exec_eq_record hf, hr]
    rfl
  · simp only [State.complete_kernels, State.complete_params, State.complete_ncoef, State.complete_mem, State.complete_draws, and_self]

/-! ## NaNs in the sum of the recurrence (R9, R155) -/

theorem isNaN64_add64 {a b : Dword} (h : isNaN64 a = true ∨ isNaN64 b = true) : isNaN64 (add64 a b) = true := by
  rw [isNaN64_iff, isNaN64_iff] at h
  exact (isNaN64_iff _).2 (nan_arithmetic h).1

theorem isNaN64_flipSign (b : Dword) : isNaN64 (b ^^^ 0x8000000000000000#64) = isNaN64 b := by
  unfold isNaN64
  rw [val64_flipSign]
  cases val64 b <;> rfl

theorem isNaN64_sub64 {a b : Dword} (h : isNaN64 a = true ∨ isNaN64 b = true) : isNaN64 (sub64 a b) = true := by
  rw [sub64_eq_add64_flipSign]
  exact isNaN64_add64 (by rwa [isNaN64_flipSign])

/-- A NaN input, or a NaN in `Y1`, makes the sum a NaN, whatever the coefficients are. -/
theorem isNaN64_filterSum (c : Coefs) {x1 x2 y1 y2 x : Dword} (h : isNaN64 y1 = true ∨ isNaN64 x = true) :
    isNaN64 (filterSum c x1 x2 y1 y2 x) = true := by
  refine isNaN64_sub64 (.inl (isNaN64_sub64 ?_))
  rcases h with h | h
  · exact .inr (isNaN64_mul64_right c.b1 h)
  · exact .inl (isNaN64_add64 (.inl (isNaN64_add64 (.inl (isNaN64_mul64_right c.a0 h)))))

theorem isNaN64_to64 {w : Word} (h : isNaN32 w = true) : isNaN64 (to64 w) = true := ((to64IsExact w).2.2 h).1

theorem isNaN32_round32 {v : Dword} (h : isNaN64 v = true) : isNaN32 (round32 v) = true :=
  (isNaN32_iff _).2 (round32_nan ((isNaN64_iff v).1 h))

theorem writtenAs64.isNaN {v d : Dword} (h : writtenAs64 v d) (hv : isNaN64 v = true) : isNaN64 d = true :=
  (Bool.and_eq_true_iff.1 (h.2 hv)).1

theorem writtenAs32.isNaN {v d : Word} (h : writtenAs32 v d) (hv : isNaN32 v = true) : isNaN32 d = true :=
  (Bool.and_eq_true_iff.1 (h.2 hv)).1

/-! ## One iteration of the sample loop (R155) -/

/-- One iteration on the input word `w`: `x` enters `X1`, the word `o` is the output, and `y` enters `Y1`. -/
structure FilterStep (c : Coefs) (x1 x2 y1 y2 : Dword) (w : Word) (x : Dword) (o : Word) (y : Dword) : Prop where
  input : writtenAs64 (to64 w) x
  output : writtenAs32 (round32 (filterSum c x1 x2 y1 y2 x)) o
  fedBack : writtenAs64 (to64 o) y

theorem FilterStep.isNaN {c : Coefs} {x1 x2 y1 y2 x y : Dword} {w o : Word} (h : FilterStep c x1 x2 y1 y2 w x o y)
    (hn : isNaN64 y1 = true ∨ isNaN32 w = true) : isNaN32 o = true ∧ isNaN64 y = true := by
  have hx : isNaN64 y1 = true ∨ isNaN64 x = true := hn.imp_right fun hw => h.input.isNaN (isNaN64_to64 hw)
  have ho := h.output.isNaN (isNaN32_round32 (isNaN64_filterSum c hx))
  exact ⟨ho, h.fedBack.isNaN (isNaN64_to64 ho)⟩

/-- Without NaNs an iteration is the recurrence, exactly. -/
theorem FilterStep.eq_recurrence {c : Coefs} {x1 x2 y1 y2 x y : Dword} {w o : Word} (h : FilterStep c x1 x2 y1 y2 w x o y)
    (hw : isNaN32 w = false) (ho : isNaN32 (filterOut c x1 x2 y1 y2 w) = false) :
    x = to64 w ∧ o = filterOut c x1 x2 y1 y2 w ∧ y = to64 (filterOut c x1 x2 y1 y2 w) := by
  obtain rfl := h.input.1 (to64_number hw).1
  obtain rfl := h.output.1 ho
  exact ⟨rfl, rfl, h.fedBack.1 (to64_number ho).1⟩

theorem filters_succ {c : Coefs} {n src dst : Nat} {m m' : Nat → Option Word} {x1 x2 y1 y2 : Dword}
    {q' : Dword × Dword × Dword × Dword} :
    filters c (n + 1) src dst m (x1, x2, y1, y2) m' q' ↔
      ∃ w x o y, (∀ v, m src = some v → w = v) ∧ FilterStep c x1 x2 y1 y2 w x o y ∧
        filters c n (src + 1) (dst + 1) (Function.update m dst (some o)) (x, x1, y, y1) m' q' :=
  ⟨fun ⟨w, x, o, y, hw, hx, ho, hy, h⟩ => ⟨w, x, o, y, hw, ⟨hx, ho, hy⟩, h⟩,
    fun ⟨w, x, o, y, hw, ⟨hx, ho, hy⟩, h⟩ => ⟨w, x, o, y, hw, hx, ho, hy, h⟩⟩

/-! ## The sample loop on a memory of words (R156) -/

/-- The loop leaves every word outside its outputs. -/
theorem filters_frame {c : Coefs} {n src dst : Nat} {m m' : Nat → Option Word} {q q' : Dword × Dword × Dword × Dword}
    (h : filters c n src dst m q m' q') {b : Nat} (hb : b < dst ∨ dst + n ≤ b) : m' b = m b := by
  induction n generalizing src dst m q with
  | zero => rw [h.1]
  | succ n ih =>
    obtain ⟨w, x, o, y, -, -, hrest⟩ := filters_succ.1 h
    rw [ih hrest (by omega), Function.update_of_ne (by omega)]

/-- The word at `a` is written, and it is a NaN. -/
def holdsNaN (m : Nat → Option Word) (a : Nat) : Prop := ∃ w, m a = some w ∧ isNaN32 w = true

/-- A NaN in the output of an iteration whose later iterations write only NaNs. -/
theorem holdsNaN_outputs {c : Coefs} {n src dst : Nat} {m m' : Nat → Option Word} {q q' : Dword × Dword × Dword × Dword} {o : Word}
    (h : filters c n src (dst + 1) (Function.update m dst (some o)) q m' q') (ho : isNaN32 o = true)
    (hrest : ∀ j < n, holdsNaN m' (dst + 1 + j)) : ∀ j < n + 1, holdsNaN m' (dst + j) := by
  intro j hj
  cases j with
  | zero => exact ⟨o, by rw [Nat.add_zero, filters_frame h (by omega), Function.update_self], ho⟩
  | succ j => simpa only [Nat.add_right_comm, Nat.add_assoc] using hrest j (by omega)

/-- From a NaN in `Y1` on, every output is a NaN, and so is the `Y1` left. -/
theorem filters_nan_from_y1 {c : Coefs} {n src dst : Nat} {m m' : Nat → Option Word} {x1 x2 y1 y2 : Dword}
    {q' : Dword × Dword × Dword × Dword} (h : filters c n src dst m (x1, x2, y1, y2) m' q') (hy1 : isNaN64 y1 = true) :
    (∀ j < n, holdsNaN m' (dst + j)) ∧ isNaN64 q'.2.2.1 = true := by
  induction n generalizing src dst m x1 x2 y1 y2 with
  | zero => exact ⟨fun j hj => absurd hj (Nat.not_lt_zero j), h.2 ▸ hy1⟩
  | succ n ih =>
    obtain ⟨w, x, o, y, -, hstep, hrest⟩ := filters_succ.1 h
    obtain ⟨ho, hy⟩ := hstep.isNaN (.inl hy1)
    obtain ⟨hout, hleft⟩ := ih hrest hy
    exact ⟨holdsNaN_outputs hrest ho hout, hleft⟩

/-- Where no output lands on an input still to be read, the inputs are still there after one iteration. -/
theorem inputs_after_write {src dst n : Nat} {m : Nat → Option Word} {w o : Word} {ws : List Word}
    (hins : ∀ i < n + 1, m (src + i) = (w :: ws)[i]?) (hplace : dst ≤ src ∨ src + (n + 1) ≤ dst) :
    ∀ i < n, Function.update m dst (some o) (src + 1 + i) = ws[i]? := by
  intro i hi
  rw [Function.update_of_ne (by omega), Nat.add_assoc, Nat.add_comm 1 i]
  exact hins (i + 1) (by omega)

/-- After a NaN input, or from a NaN in `Y1`, every output is a NaN, and so is the `Y1` left (R155). -/
theorem filters_nan_from_input {c : Coefs} {ins : List Word} {src dst : Nat} {m m' : Nat → Option Word} {x1 x2 y1 y2 : Dword}
    {q' : Dword × Dword × Dword × Dword} (h : filters c ins.length src dst m (x1, x2, y1, y2) m' q')
    (hins : ∀ i < ins.length, m (src + i) = ins[i]?) (hplace : dst ≤ src ∨ src + ins.length ≤ dst) {i j : Nat} (hij : i ≤ j)
    (hj : j < ins.length) (hn : isNaN64 y1 = true ∨ ∃ w, ins[i]? = some w ∧ isNaN32 w = true) :
    holdsNaN m' (dst + j) ∧ isNaN64 q'.2.2.1 = true := by
  induction ins generalizing src dst m x1 x2 y1 y2 i j with
  | nil => exact absurd hj (Nat.not_lt_zero j)
  | cons w ws ih =>
    obtain ⟨w', x, o, y, hw, hstep, hrest⟩ := filters_succ.1 h
    obtain rfl : w' = w := hw w (hins 0 (Nat.succ_pos _))
    by_cases hnow : isNaN64 y1 = true ∨ isNaN32 w' = true
    · obtain ⟨ho, hy⟩ := hstep.isNaN hnow
      obtain ⟨hout, hleft⟩ := filters_nan_from_y1 hrest hy
      exact ⟨holdsNaN_outputs hrest ho hout j hj, hleft⟩
    · obtain ⟨hy1, hw'⟩ := not_or.1 hnow
      obtain ⟨v, hv, hvn⟩ := hn.resolve_left hy1
      cases i with
      | zero => exact absurd (Option.some.inj hv ▸ hvn) hw'
      | succ i =>
        obtain ⟨j, rfl⟩ : ∃ k, j = k + 1 := ⟨j - 1, by omega⟩
        have hnext := ih hrest (inputs_after_write hins hplace) (hplace.imp (by omega) (by simp only [List.length_cons]; omega))
          (Nat.le_of_succ_le_succ hij) (Nat.lt_of_succ_lt_succ hj) (.inr ⟨v, hv, hvn⟩)
        simpa only [Nat.add_right_comm, Nat.add_assoc] using hnext

/-- Where no input and no output of the recurrence is a NaN, the loop writes its outputs and leaves its filter state (R155). -/
theorem filters_eq_filterAll {c : Coefs} {ins : List Word} {src dst : Nat} {m m' : Nat → Option Word} {x1 x2 y1 y2 : Dword}
    {q' : Dword × Dword × Dword × Dword} (h : filters c ins.length src dst m (x1, x2, y1, y2) m' q')
    (hins : ∀ i < ins.length, m (src + i) = ins[i]?) (hplace : dst ≤ src ∨ src + ins.length ≤ dst)
    (hnum : ∀ w ∈ ins, isNaN32 w = false) (hout : ∀ w ∈ (filterAll c x1 x2 y1 y2 ins).1, isNaN32 w = false) :
    (∀ i < ins.length, m' (dst + i) = (filterAll c x1 x2 y1 y2 ins).1[i]?) ∧ q' = (filterAll c x1 x2 y1 y2 ins).2 := by
  induction ins generalizing src dst m x1 x2 y1 y2 with
  | nil => exact ⟨fun i hi => absurd hi (Nat.not_lt_zero i), h.2⟩
  | cons w ws ih =>
    obtain ⟨w', x, o, y, hw, hstep, hrest⟩ := filters_succ.1 h
    obtain rfl : w' = w := hw w (hins 0 (Nat.succ_pos _))
    obtain ⟨hw', hnum'⟩ := List.forall_mem_cons.1 hnum
    obtain ⟨ho, hout'⟩ := List.forall_mem_cons.1 hout
    obtain ⟨rfl, rfl, rfl⟩ := hstep.eq_recurrence hw' ho
    obtain ⟨hwords, hstate⟩ := ih hrest (inputs_after_write hins hplace) (hplace.imp (by omega) (by simp only [List.length_cons]; omega))
      hnum' hout'
    refine ⟨fun i hi => ?_, hstate⟩
    cases i with
    | zero => rw [Nat.add_zero, filters_frame hrest (by omega), Function.update_self]; rfl
    | succ i =>
      rw [Nat.add_comm i 1, ← Nat.add_assoc]
      exact (hwords i (Nat.lt_of_succ_lt_succ hi)).trans (by rw [Nat.add_comm 1 i]; rfl)

/-! ## The sample loop of the machine (R155, R156) -/

/-- The filter state of a channel, in the order of the statements (R36). -/
def Kernel.filterState (k : Kernel) : Dword × Dword × Dword × Dword := (k.x1, k.x2, k.y1, k.y2)

theorem memWord?_putWord (m : List Host.Cell) (a : Nat) (w : Word) :
    memWord? (putWord m a w) = Function.update (memWord? m) a (some w) := by
  funext b
  by_cases hb : b = a
  · rw [hb, memWord?_putWord_same, Function.update_self]
  · rw [memWord?_putWord_ne m a b w hb, Function.update_of_ne hb]

theorem State.memRead_of_some {s : State} {a : Nat} {w : Word} (h : memWord? s.mem a = some w) : (s.memRead a).1 = w := by
  rw [State.memRead_word, h, Option.getD_some]

/-- One sample is one iteration on its channel's filter state, and writes its output word (R155). -/
theorem State.sample_filterStep {s : State} {ch : BitVec 8} (hch : ch.toNat < s.nch) (src dst : Nat) :
    ∃ w x o y, (∀ v, memWord? s.mem src = some v → w = v) ∧
      FilterStep (s.kernel ch).coef (s.kernel ch).x1 (s.kernel ch).x2 (s.kernel ch).y1 (s.kernel ch).y2 w x o y ∧
      (s.sample ch src dst).kernel ch = (s.kernel ch).shifted x y ∧ (s.sample ch src dst).mem = putWord s.mem dst o := by
  obtain ⟨n, x, y, -, -, hstate⟩ := s.sampleIn_shifts ch src
  obtain ⟨ho, hx, hy, -⟩ := s.sampleIn_writes src hch
  have hk : (s.sampleIn ch src).2.kernel ch = (s.kernel ch).shifted x y := by
    rw [hstate]
    exact State.kernel_setKernel_same (s.setDraws n) ch _ hch
  have hm : (s.sampleIn ch src).2.mem = s.mem := by rw [hstate]; rfl
  rw [hk] at hx hy
  obtain rfl : x = _ := hx
  obtain rfl : y = _ := hy
  refine ⟨(s.memRead src).1, _, (s.sampleIn ch src).1, _, fun v => State.memRead_of_some, ⟨State.fresh64_writtenAs _ _, ?_, ?_⟩, hk,
    congrArg (putWord · dst _) hm⟩
  · rw [ho]
    exact State.fresh32_writtenAs _ _
  · rw [ho]
    exact State.fresh64_writtenAs _ _

/-- The machine's sample loop is the loop of the statements, whatever the placement of the buffers (R156). -/
theorem State.samples_filters (n : Nat) {ch : BitVec 8} (src dst : Nat) {s : State} (hch : ch.toNat < s.nch) :
    filters (s.kernel ch).coef n src dst (memWord? s.mem) (s.kernel ch).filterState
      (memWord? (State.samples ch src dst n s).mem) ((State.samples ch src dst n s).kernel ch).filterState := by
  induction n generalizing src dst s with
  | zero => exact ⟨rfl, rfl⟩
  | succ n ih =>
    obtain ⟨w, x, o, y, hw, hstep, hk, hm⟩ := State.sample_filterStep hch src dst
    have hrest := ih (src + 1) (dst + 1) (s := s.sample ch src dst) (by rwa [(s.sample_sameOutside ch src dst).nch])
    rw [hk, hm, memWord?_putWord] at hrest
    exact filters_succ.2 ⟨w, x, o, y, hw, hstep, hrest⟩

/-! ## PROCESS (R150, R154) -/

/-- A recompute leaves the filter state of its channel (R154). -/
theorem State.recompute_filterState {s : State} {ch : BitVec 8} (hch : ch.toNat < s.nch) (f res : Dword) :
    ((s.recompute ch f res).kernel ch).filterState = (s.kernel ch).filterState := by
  cases hc : cacheDiffers (s.kernel ch) f res with
  | true =>
    rw [State.kernel_of_set hch (State.recompute_differs hch hc)]
    rfl
  | false => rw [State.recompute_agrees hc]

/-- A PROCESS that is done has run its sample loop, on the memory and the filter state it began with (R150). -/
theorem processRule_done {s u : State} {ch : BitVec 8} {src dst n : Nat} (hch : ch.toNat < s.nch) (h : processRule ch src dst n s = .done u) :
    ∃ v : State, v.nch = s.nch ∧ v.mem = s.mem ∧ (v.kernel ch).filterState = (s.kernel ch).filterState ∧
      u = State.samples ch src dst n v := by
  unfold processRule at h
  split_ifs at h with hn hr
  · cases h
    exact ⟨s, rfl, rfl, rfl, by rw [hn]; rfl⟩
  · cases hp : preamble s.params with
    | error c => simp only [hp] at h; cases h
    | ok a =>
      simp only [hp] at h
      cases h
      exact ⟨s.recompute ch a.1 a.2, (s.recompute_sameOutside ch _ _).nch, s.recompute_mem ch _ _, State.recompute_filterState hch _ _, rfl⟩

/-- A command that leaves no error on its port completed: its rule is done (R112, R212). -/
theorem commandRule_done {i : Instr} {s t : State} (h : exec i s = .next t) (herr : (t.portState s.cur).err = false) :
    ∃ u, commandRule i s = .done u ∧ t = u.complete i.len := by
  rcases exec_cases h with ⟨c, -, rfl⟩ | ⟨hf, c, u, hu, rfl⟩ | ⟨-, hdone⟩
  · rw [State.portState_raise_cur] at herr
    cases herr
  · have hw := commandRule_worked hf
    rw [hu] at hw
    rw [← hw.2.cur, State.portState_raise_cur] at herr
    cases herr
  · exact hdone

/-- The filtering that a PROCESS without an error does (R155, R156). -/
theorem exec_process_filters {ch : BitVec 8} {sil : Bool} {src dst n : Word} {s t : State} (hcur : s.cur = .R) (hch : ch.toNat < s.nch)
    (h : exec (.process ch sil src dst n) s = .next t) (herr : (t.portState .R).err = false) :
    filters (t.kernel ch).coef n.toNat src.toNat dst.toNat (memWord? s.mem) (s.kernel ch).filterState (memWord? t.mem)
      (t.kernel ch).filterState := by
  obtain ⟨u, hu, rfl⟩ := commandRule_done h (hcur ▸ herr)
  obtain ⟨v, hnch, hmem, hstate, rfl⟩ := processRule_done hch hu
  have hloop := State.samples_filters n.toNat src.toNat dst.toNat (hnch ▸ hch)
  obtain ⟨k, hsame, hk⟩ := State.samples_kernels n.toNat src.toNat dst.toNat (hnch ▸ hch)
  rw [State.complete_kernel, State.complete_mem, ← hmem, ← hstate, State.kernel_of_set (hnch ▸ hch) hk, hsame.coef,
    ← State.kernel_of_set (hnch ▸ hch) hk]
  exact hloop

/-- Settles O47: the machine's loop is `filters` (`State.samples_filters`); NaNs and numbers pass through it by induction on the
inputs. -/
theorem processIsTheRecurrence : Obligations.ProcessIsTheRecurrence := by
  rintro ch sil src dst n s t hcur hch - hexec herr
  have h := exec_process_filters hcur hch hexec herr
  refine ⟨h, fun ins hlen hins hplace => ?_⟩
  rw [← hlen] at h hins hplace ⊢
  exact ⟨fun i j hij hj hn => filters_nan_from_input h hins hplace hij hj hn,
    fun hnum hout => filters_eq_filterAll h hins hplace hnum hout⟩

end Sys2Proof.Machine
end

section
/-! PROOFS. The preamble's ranges (R152): the clamped resonance, and the lower bounds that keep the normalized frequency above zero. -/

namespace Sys2Proof.Machine

/-! ## The order of numbers (R10) -/

theorem isNaN64_of_finite {a : Dword} (h : patternFinite binary64 a.toNat) : isNaN64 a = false :=
  isNaN64_of_isFinite64 ((isFinite64_iff a).2 h)

theorem patternExtended_of_finite {a : Dword} (h : patternFinite binary64 a.toNat) :
    patternExtended binary64 a.toNat = ((patternValue binary64 a.toNat : WithTop ℚ) : WithBot (WithTop ℚ)) := if_pos h

theorem lt64_iff_value {a b : Dword} (ha : patternFinite binary64 a.toNat) (hb : patternFinite binary64 b.toNat) :
    lt64 a b = true ↔ patternValue binary64 a.toNat < patternValue binary64 b.toNat := by
  rw [lt64_iff (isNaN64_of_finite ha) (isNaN64_of_finite hb), patternExtended_of_finite ha, patternExtended_of_finite hb,
    WithBot.coe_lt_coe, WithTop.coe_lt_coe]

theorem le64_iff_value {a b : Dword} (ha : patternFinite binary64 a.toNat) (hb : patternFinite binary64 b.toNat) :
    le64 a b = true ↔ patternValue binary64 a.toNat ≤ patternValue binary64 b.toNat := by
  rw [le64_iff (isNaN64_of_finite ha) (isNaN64_of_finite hb), patternExtended_of_finite ha, patternExtended_of_finite hb,
    WithBot.coe_le_coe, WithTop.coe_le_coe]

/-- Without NaNs, `<` is false exactly where the converse `<=` is true. -/
theorem lt64_eq_false_iff {a b : Dword} (ha : isNaN64 a = false) (hb : isNaN64 b = false) : lt64 a b = false ↔ le64 b a = true := by
  rw [← Bool.not_eq_true, lt64_iff ha hb, le64_iff hb ha, not_lt]

theorem lt64_trans {a b c : Dword} (ha : isNaN64 a = false) (hb : isNaN64 b = false) (hc : isNaN64 c = false)
    (hab : lt64 a b = true) (hbc : lt64 b c = true) : lt64 a c = true := by
  rw [lt64_iff ha hc]
  exact ((lt64_iff ha hb).1 hab).trans ((lt64_iff hb hc).1 hbc)

/-! ## The resonance (R152) -/

theorem clampRes_of_lt {r : Dword} (h : lt64 r minusTwenty = true) : clampRes r = minusTwenty := by
  rw [clampRes, if_pos h]
  decide

theorem clampRes_of_not_lt {r : Dword} (h : lt64 r minusTwenty = false) : clampRes r = if lt64 twenty r then twenty else r := by
  rw [clampRes, h]
  rfl

theorem clampRes_of_gt {r : Dword} (hn : isNaN64 r = false) (h : lt64 twenty r = true) : clampRes r = twenty := by
  have hlow : lt64 r minusTwenty = false := by
    rw [← Bool.not_eq_true]
    intro hlt
    exact absurd (lt64_trans (by decide) hn (by decide) h hlt) (by decide)
  rw [clampRes_of_not_lt hlow, if_pos h]

theorem clampRes_of_within {r : Dword} (hn : isNaN64 r = false) (hlo : le64 minusTwenty r = true) (hhi : le64 r twenty = true) :
    clampRes r = r := by
  rw [clampRes_of_not_lt ((lt64_eq_false_iff hn (by decide)).2 hlo), (lt64_eq_false_iff (by decide) hn).2 hhi]
  rfl

theorem clampRes_range {r : Dword} (hn : isNaN64 r = false) :
    le64 minusTwenty (clampRes r) = true ∧ le64 (clampRes r) twenty = true := by
  cases hlo : lt64 r minusTwenty with
  | true =>
    rw [clampRes_of_lt hlo]
    decide
  | false =>
    cases hhi : lt64 twenty r with
    | true =>
      rw [clampRes_of_gt hn hhi]
      decide
    | false =>
      have hlo' := (lt64_eq_false_iff hn (by decide)).1 hlo
      have hhi' := (lt64_eq_false_iff (by decide) hn).1 hhi
      rw [clampRes_of_within hn hlo' hhi']
      exact ⟨hlo', hhi'⟩

/-! ## Lower bounds of rounded results (R5) -/

/-- A pattern of a number not below `v`, or of +infinity. -/
def atLeast (v : ℚ) (a : Dword) : Prop :=
  a = signedInfinity false ∨ patternFinite binary64 a.toNat ∧ v ≤ patternValue binary64 a.toNat

theorem patternValue_zero : patternValue binary64 (0 : Dword).toNat = 0 := by
  rw [patternValue_eq_units, show (0 : Dword).toNat % binary64.signBit = 0 from rfl, FloatFmt.units_zero]
  simp

theorem patternValue_two : patternValue binary64 two.toNat = 2 := by
  norm_num [patternValue, exponentField, fractionField, binary64, two]

theorem patternValue_twelve : patternValue binary64 twelve.toNat = 12 := by
  norm_num [patternValue, exponentField, fractionField, binary64, twelve]

/-- The least positive number of binary64. -/
theorem patternValue_least : patternValue binary64 (1#64).toNat = 2 ^ (-1074 : ℤ) := by
  norm_num [patternValue, exponentField, fractionField, binary64]

theorem patternValue_lt {a : Dword} (h : patternFinite binary64 a.toNat) : patternValue binary64 a.toNat < 2 ^ (1024 : ℤ) := by
  obtain ⟨m, e, hu, hm, ⟨-, he⟩, hv⟩ := FloatFmt.unpack_fin h
  have hm' : (m : ℚ) < 2 ^ (53 : ℤ) := by exact_mod_cast hm
  have he' : e ≤ 971 := he.trans (by decide)
  rw [hv, hu, FloatVal.value_fin]
  calc (-1 : ℚ) ^ (binary64.negative a.toNat).toNat * (m * 2 ^ e)
      ≤ m * 2 ^ e := mul_le_of_le_one_left (by positivity) (by cases binary64.negative a.toNat <;> norm_num)
    _ ≤ m * 2 ^ (971 : ℤ) := by gcongr; norm_num
    _ < 2 ^ (53 : ℤ) * 2 ^ (971 : ℤ) := by gcongr
    _ = 2 ^ (1024 : ℤ) := by rw [← zpow_add₀ two_ne_zero]; rfl

theorem msb_of_patternValue_pos {a : Dword} (h : 0 < patternValue binary64 a.toNat) : a.msb = false := by
  rw [← negative_toNat64, ← Bool.not_eq_true]
  intro hneg
  have hmag : (0 : ℚ) ≤ binary64.units (a.toNat % binary64.signBit) * 2 ^ binary64.emin := by positivity
  rw [patternValue_eq_units, hneg, Bool.toNat_true, pow_one, neg_one_mul] at h
  linarith

theorem atLeast.isNaN64_eq_false {v : ℚ} {a : Dword} (h : atLeast v a) : isNaN64 a = false := by
  rcases h with rfl | ⟨hfin, -⟩
  · decide
  · exact isNaN64_of_finite hfin

theorem atLeast.positive {v : ℚ} {a : Dword} (h : atLeast v a) (hv : 0 < v) : lt64 0 a = true := by
  rcases h with rfl | ⟨hfin, hle⟩
  · decide
  · rw [lt64_iff_value ((isFinite64_iff _).1 (by decide)) hfin, patternValue_zero]
    exact hv.trans_le hle

theorem atLeast_twelve {a : Dword} (h : le64 twelve a = true) : atLeast 12 a := by
  rcases pattern_cases binary64 a.toNat with hfin | hinf | hnan
  · rw [le64_iff_value ((isFinite64_iff _).1 (by decide)) hfin, patternValue_twelve] at h
    exact .inr ⟨hfin, h⟩
  · have ha := eq_signedInfinity hinf
    generalize a.msb = s at ha
    subst ha
    cases s with
    | false => exact .inl rfl
    | true => exact absurd h (by decide)
  · rw [(compare_nan (.inr ((isNaN64_iff a).2 hnan))).2.2] at h
    cases h

/-- Rounding to nearest does not fall below a number that is not above the exact result. -/
theorem atLeast_of_correctlyRounded {q : ℚ} {b r : Dword} (h : correctlyRounded binary64 (q : ℝ) r.toNat) (hq : 0 < q)
    (hb : patternFinite binary64 b.toNat) (hbq : patternValue binary64 b.toNat ≤ q) : atLeast (patternValue binary64 b.toNat) r := by
  obtain ⟨hsign, hover, hnear⟩ := h
  have hq' : (0 : ℝ) < q := by exact_mod_cast hq
  have hbq' : (patternValue binary64 b.toNat : ℝ) ≤ q := by exact_mod_cast hbq
  rcases le_or_gt (overflowBound binary64 : ℝ) |(q : ℝ)| with ho | ho
  · have hmsb : r.msb = false := by
      rw [← negative_toNat64, ← Bool.not_eq_true, ← FloatFmt.signField_iff, hsign]
      exact not_lt.2 hq'.le
    exact .inl (hmsb ▸ eq_signedInfinity (hover ho))
  · obtain ⟨hfin, hle⟩ := hnear ho
    have hdist := (hle b.toNat b.isLt hb).1
    rw [abs_of_nonpos (sub_nonpos.2 hbq')] at hdist
    have hr : (patternValue binary64 b.toNat : ℝ) ≤ patternValue binary64 r.toNat := by linarith [(abs_le.1 hdist).1]
    exact .inr ⟨hfin, by exact_mod_cast hr⟩

/-! ## The normalized frequency (R152) -/

theorem le64_twelve_clampCut {cut : Dword} (h : isNaN64 cut = false) : le64 twelve (clampCut cut) = true := by
  cases hlt : lt64 cut twelve with
  | true =>
    rw [clampCut, if_pos hlt]
    decide
  | false =>
    rw [clampCut, hlt]
    exact (lt64_eq_false_iff h (by decide)).1 hlt

/-- Doubling a cutoff keeps it above 12 Hz, also where it overflows. -/
theorem atLeast_mul64_two {c : Dword} (h : atLeast 12 c) : atLeast 12 (mul64 two c) := by
  rcases h with rfl | ⟨hfin, hle⟩
  · exact .inl (by decide)
  · have hround := (mul64_finite (a := two) ((isFinite64_iff _).1 (by decide)) hfin).1
    rw [patternValue_two] at hround
    have hc : (0 : ℚ) < 2 * patternValue binary64 c.toNat := by linarith
    rw [← patternValue_twelve]
    exact atLeast_of_correctlyRounded (hround hc.ne') hc ((isFinite64_iff _).1 (by decide)) (by rw [patternValue_twelve]; linarith)

/-- A cutoff divided by a finite positive sample rate does not vanish: it is not below the least positive number. -/
theorem atLeast_div64 {c sr : Dword} (h : atLeast 12 c) (hfin : patternFinite binary64 sr.toNat) (hpos : 0 < patternValue binary64 sr.toNat) :
    atLeast (2 ^ (-1074 : ℤ)) (div64 c sr) := by
  rcases h with rfl | ⟨hc, hle⟩
  · have hinf : patternInfinite binary64 (signedInfinity false).toNat := by unfold patternInfinite; decide
    obtain ⟨-, -, hdiv, -⟩ := infinite_finite_arithmetic hinf hfin
    rw [hdiv, msb_of_patternValue_pos hpos]
    exact .inl rfl
  · have hquot : (2 : ℚ) ^ (-1074 : ℤ) ≤ patternValue binary64 c.toNat / patternValue binary64 sr.toNat := by
      rw [le_div_iff₀ hpos]
      calc (2 : ℚ) ^ (-1074 : ℤ) * patternValue binary64 sr.toNat
          ≤ 2 ^ (-1074 : ℤ) * 2 ^ (1024 : ℤ) := by gcongr; exact (patternValue_lt hfin).le
        _ ≤ 12 := by rw [← zpow_add₀ two_ne_zero]; norm_num
        _ ≤ patternValue binary64 c.toNat := hle
    have hround := (div64_finite hc hfin).1 (by linarith) hpos.ne'
    rw [← patternValue_least] at hquot ⊢
    exact atLeast_of_correctlyRounded hround (div_pos (by linarith) hpos) ((isFinite64_iff _).1 (by decide)) hquot

theorem normalizedFreq_range {cut sr : Dword} (hcut : isNaN64 cut = false) (hfin : isFinite64 sr = true) (hpos : lt64 0 sr = true) :
    lt64 0 (normalizedFreq (clampCut cut) sr) = true ∧ le64 (normalizedFreq (clampCut cut) sr) c099 = true := by
  have hfin' := (isFinite64_iff sr).1 hfin
  rw [lt64_iff_value ((isFinite64_iff _).1 (by decide)) hfin', patternValue_zero] at hpos
  have hq := atLeast_div64 (atLeast_mul64_two (atLeast_twelve (le64_twelve_clampCut hcut))) hfin' hpos
  rw [normalizedFreq]
  generalize div64 (mul64 two (clampCut cut)) sr = q at hq
  cases hlt : lt64 c099 q with
  | true =>
    rw [if_pos rfl]
    decide +kernel
  | false => exact ⟨hq.positive (by positivity), (lt64_eq_false_iff (by decide) hq.isNaN64_eq_false).1 hlt⟩

/-- Settles O45: the cutoff is at least 12 Hz, so its quotient by a finite sample rate rounds to no zero and to no NaN; the resonance lies
below, within or above its range. -/
theorem preambleClampsIntoRange : Obligations.PreambleClampsIntoRange := by
  intro p h
  have hp := preamble_of_accepted h
  obtain ⟨-, -, -, hcut, hres, hfin, hpos⟩ := h
  obtain ⟨hf0, hf1⟩ := normalizedFreq_range hcut hfin hpos
  obtain ⟨hr0, hr1⟩ := clampRes_range hres
  exact ⟨_, _, hp, hf0, hf1, hr0, hr1, clampRes_of_within hres, clampRes_of_lt, clampRes_of_gt hres, rfl⟩

end Sys2Proof.Machine
end

section
/-! PROOFS. RESET (R170, R172), and the recompute that it forces on the next PROCESS (R171). -/

namespace Sys2Proof.Machine

/-! ## RESET (R170, R172) -/

theorem State.setKernel_sameOutside (s : State) (ch : BitVec 8) (k : Kernel) : s.sameOutside (s.setKernel ch k) :=
  ⟨rfl, rfl, rfl, rfl, rfl, rfl, rfl, rfl, rfl, rfl, s.setKernel_nch ch k⟩

theorem exec_reset {ch : BitVec 8} {s : State} (hcur : s.cur = .R) (hch : ch.toNat < s.nch) :
    exec (.reset ch) s = .next ((s.setKernel ch (s.kernel ch).cleared).complete 1) := by
  have hf : headerFault s.cur s.nch (Instr.reset ch).header = none := headerFault_none nofun (.inl hcur) hch
  rw [exec_eq_record hf]
  rfl

/-- Settles O42: RESET is one kernel written, completed. -/
theorem resetClearsChannel : Obligations.ResetClearsChannel := by
  intro ch s hcur hch
  have hout := s.setKernel_sameOutside ch (s.kernel ch).cleared
  refine ⟨_, exec_reset hcur hch, completed_of_sameOutside hout 1, keepsOthers_complete hout 1,
    kernelsExcept_of_set (State.complete_kernels _ 1), ?_⟩
  rw [State.complete_kernel, State.complete_params, State.complete_ncoef, State.complete_mem, State.complete_draws,
    State.kernel_setKernel_same _ _ _ hch]
  exact ⟨rfl, rfl, rfl, rfl, rfl⟩

/-! ## What keeps a cleared cache (R171) -/

/-- A kernel written keeps a cleared cache unless it is the channel's own and holds no sentinel. -/
theorem cacheCleared_of_set {s t : State} {x ch : BitVec 8} {k : Kernel} (hs : cacheCleared ch s) (hx : x.toNat < s.nch)
    (h : t.kernels = s.kernels.set x.toNat k) (hk : x = ch → k.lastF = sentinel ∧ k.lastR = sentinel) : cacheCleared ch t := by
  by_cases hxc : x = ch
  · subst hxc
    rw [cacheCleared, State.kernel_of_set hx h]
    exact hk rfl
  · have hne : x.toNat ≠ ch.toNat := fun e => hxc (BitVec.eq_of_toNat_eq e)
    rwa [cacheCleared, State.kernel, h, List.getElem?_set_ne hne]

theorem cacheCleared_of_readsTo {s t : State} {ch : BitVec 8} (hs : cacheCleared ch s) (h : s.readsTo t) : cacheCleared ch t := by
  rwa [cacheCleared, State.kernel, h.2.1]

/-- Everything the rule of a PROCESS can do: nothing without samples, an error, or the filtering (R150, R151). -/
theorem processRule_cases (ch : BitVec 8) (src dst n : Nat) (s : State) :
    (n = 0 ∧ processRule ch src dst n s = .done s) ∨
    (∃ c, c ≠ .none ∧ processRule ch src dst n s = .failed c s) ∨
    (n ≠ 0 ∧ ∃ f res, preamble s.params = .ok (f, res) ∧ processRule ch src dst n s = .done (s.processed ch src dst n f res)) := by
  unfold processRule
  split_ifs with hn
  · exact .inl ⟨hn, rfl⟩
  · exact .inr (.inl ⟨_, by decide, rfl⟩)
  · cases hp : preamble s.params with
    | error c => exact .inr (.inl ⟨c, preamble_error hp, rfl⟩)
    | ok a => exact .inr (.inr ⟨hn, a.1, a.2, rfl, rfl⟩)

/-- A PROCESS writes the kernel of its channel alone (R159). -/
theorem State.processed_kernels {s : State} {ch : BitVec 8} (hch : ch.toNat < s.nch) (src dst n : Nat) (f res : Dword) :
    ∃ k, (s.processed ch src dst n f res).kernels = s.kernels.set ch.toNat k := by
  cases hc : cacheDiffers (s.kernel ch) f res with
  | true =>
    obtain ⟨k, -, hk⟩ := State.processed_differs hch hc src dst n
    exact ⟨k, hk⟩
  | false =>
    obtain ⟨k, -, hk⟩ := State.processed_agrees hch hc src dst n
    exact ⟨k, hk⟩

/-- PROCESS keeps a cleared cache but that of its own channel where it has samples to filter (R151, R159). -/
theorem processRule_keepsCleared {s : State} {x ch : BitVec 8} (hs : cacheCleared ch s) (hx : x.toNat < s.nch) (src dst : Nat) {n : Nat}
    (hn : x = ch → n = 0) : (processRule x src dst n s).Leaves (cacheCleared ch) := by
  rcases processRule_cases x src dst n s with ⟨-, h⟩ | ⟨c, hc, h⟩ | ⟨hn', f, res, -, h⟩ <;> rw [h]
  · exact hs
  · exact ⟨hc, hs⟩
  · obtain ⟨k, hk⟩ := State.processed_kernels hx src dst n f res
    exact cacheCleared_of_set hs hx hk fun hxc => absurd (hn hxc) hn'

/-- CALC writes coefficients and no cache (R131, R132). -/
theorem calcRule_keepsCleared {s : State} {x ch : BitVec 8} (hs : cacheCleared ch s) (hx : x.toNat < s.nch) (f res : Dword) :
    (calcRule x f res s).Leaves (cacheCleared ch) := by
  unfold calcRule
  split_ifs
  · exact cacheCleared_of_set hs hx (State.writeCoef_kernels hx _) fun hxc => hxc ▸ hs
  · exact ⟨by decide, hs⟩

/-- However the rule of a command ends, it has kept a cleared cache, but for a PROCESS of that channel with samples (R171). -/
theorem commandRule_keepsCleared {i : Instr} {s : State} {ch : BitVec 8} (hs : cacheCleared ch s)
    (hi : ∀ sil src dst n, i = .process ch sil src dst n → n = 0) (hf : headerFault s.cur s.nch i.header = none) :
    (commandRule i s).Leaves (cacheCleared ch) := by
  cases i with
  | wrp sel value => exact hs
  | process x sil src dst n =>
    refine processRule_keepsCleared hs (lt_nch_of_headerFault hf nofun) _ _ fun hxc => ?_
    rw [hi sil src dst n (hxc ▸ rfl)]
    rfl
  | reset x => exact cacheCleared_of_set hs (lt_nch_of_headerFault hf nofun) rfl fun _ => ⟨rfl, rfl⟩
  | calcCoef x f res => exact calcRule_keepsCleared hs (lt_nch_of_headerFault hf nofun) f res
  | eval x freq dst => exact (evalRule_leaves x freq _ s).imp fun _ => cacheCleared_of_readsTo hs
  | curve x a n => exact (curveRule_leaves x _ _ s).imp fun _ => cacheCleared_of_readsTo hs
  | rdcoef x dst => exact (rdcoefRule_leaves x _ s).imp fun _ => cacheCleared_of_readsTo hs

/-- No command but a PROCESS of that channel with samples changes a cleared cache (R171). -/
theorem exec_keepsCleared {i : Instr} {s t : State} {ch : BitVec 8} (hs : cacheCleared ch s)
    (hi : ∀ sil src dst n, i = .process ch sil src dst n → n = 0) (h : exec i s = .next t) : cacheCleared ch t := by
  unfold cacheCleared
  rcases exec_cases h with ⟨c, -, rfl⟩ | ⟨hf, c, u, hr, rfl⟩ | ⟨hf, u, hr, rfl⟩
  · rwa [State.raise_kernel]
  · have hu := commandRule_keepsCleared hs hi hf
    rw [hr] at hu
    rw [State.raise_kernel]
    exact hu.2
  · have hu := commandRule_keepsCleared hs hi hf
    rw [hr] at hu
    rwa [State.complete_kernel]

/-! ## A PROCESS from a cleared cache (R171) -/

/-- A command that leaves no error on its port passed its header checks (R112, R212). -/
theorem headerFault_of_exec {i : Instr} {s t : State} (h : exec i s = .next t) (herr : (t.portState s.cur).err = false) :
    headerFault s.cur s.nch i.header = none := by
  rcases exec_cases h with ⟨c, -, rfl⟩ | ⟨hf, -⟩ | ⟨hf, -⟩
  · rw [State.portState_raise_cur] at herr
    cases herr
  · exact hf
  · exact hf

/-- The preamble never agrees with a cleared cache (R37, R171). -/
theorem cacheDiffers_of_cleared {s : State} {ch : BitVec 8} {f res : Dword} (hs : cacheCleared ch s) (hp : preamble s.params = .ok (f, res)) :
    cacheDiffers (s.kernel ch) f res = true := by
  have hf : (s.kernel ch).lastF = sentinel := hs.1
  rw [cacheDiffers, hf, eq64_sentinel_of_preamble hp]
  rfl

/-- Settles O43: RESET writes the sentinel, the other commands leave it (`exec_keepsCleared`), and no `(f, res)` of the preamble agrees
with it (`cacheDiffers_of_cleared`). -/
theorem resetForcesRecompute : Obligations.ResetForcesRecompute := by
  refine fun ch => ⟨fun s hcur hch => ?_, fun i s t hs hi h => exec_keepsCleared hs hi h, ?_⟩
  · obtain ⟨t, hexec, -, -, -, hk, -⟩ := resetClearsChannel ch s hcur hch
    exact ⟨t, hexec, by rw [cacheCleared, hk]; exact ⟨rfl, rfl⟩⟩
  · rintro sil src dst n s t hs hn - hexec herr
    have hch : ch.toNat < s.nch := lt_nch_of_headerFault (headerFault_of_exec hexec herr) nofun
    obtain ⟨u, hu, rfl⟩ := commandRule_done hexec herr
    change processRule ch src.toNat dst.toNat n.toNat s = .done u at hu
    rcases processRule_cases ch src.toNat dst.toNat n.toNat s with ⟨h0, -⟩ | ⟨c, -, h⟩ | ⟨-, f, res, hp, h⟩
    · omega
    · cases hu.symm.trans h
    · obtain rfl := Ended.done.inj (hu.symm.trans h)
      have hdiffers := cacheDiffers_of_cleared hs hp
      obtain ⟨k, hrec, hk⟩ := State.processed_differs hch hdiffers src.toNat dst.toNat n.toNat
      rw [State.complete_ncoef, State.complete_kernel, State.processed_ncoef, if_pos hdiffers, State.kernel_of_set hch hk]
      exact ⟨rfl, hrec.valid, f, res, hp, hrec.lastF, hrec.lastR, hrec.coef⟩

end Sys2Proof.Machine
end

section
/-! PROOFS. MAG and EVAL (R180–R183, R187). -/

namespace Sys2Proof.Machine

/-! ## The sign of a modulus (R180) -/

/-- A square has a clear sign bit: the two signs are the same. -/
theorem FloatVal.mul_self_negative (u : FloatVal) : (u.mul u).negative = false := by
  match u with
  | .nan => rfl
  | .inf s => exact Bool.xor_self s
  | .fin s _ _ => exact Bool.xor_self s

/-- A sum of values with the sign bit clear has it clear: their sum is not below zero, and a zero sum is +0. -/
theorem FloatVal.add_negative {u v : FloatVal} (hu : u.negative = false) (hv : v.negative = false) : (u.add v).negative = false := by
  match u, v, hu, hv with
  | .nan, _, _, _ => rfl
  | u, .nan, _, _ => rw [FloatVal.add_nan]; rfl
  | .inf false, .inf false, _, _ => rfl
  | .inf false, .fin false n f, _, _ => rfl
  | .fin false m e, .inf false, _, _ => rfl
  | .fin false m e, .fin false n f, _, _ =>
    have hsum : 0 ≤ scaled false m e (minExp e f) + scaled false n f (minExp e f) :=
      Int.add_nonneg (scaled_false_nonneg m e _) (scaled_false_nonneg n f _)
    simp only [FloatVal.add]
    split_ifs
    · rfl
    · exact decide_eq_false hsum.not_gt

theorem FloatVal.sqrt_negative {u : FloatVal} (hu : u.negative = false) : u.sqrt.negative = false := by
  match u, hu with
  | .nan, _ => rfl
  | .inf false, _ => rfl
  | .fin false m e, _ => cases m <;> rfl

/-- A modulus is the root of a sum of squares, so its sign bit is clear. -/
theorem modulus_negative (re im : Dword) : (val64 (modulus re im)).negative = false :=
  have hsquare (a : Dword) : (val64 (mul64 a a)).negative = false := negative_val64_pack64 (FloatVal.mul_self_negative _)
  negative_val64_pack64 (FloatVal.sqrt_negative (negative_val64_pack64 (FloatVal.add_negative (hsquare re) (hsquare im))))

/-! ## DEGENERATE (R183) -/

/-- The patterns that `==` finds equal to zero are the two zeros (R10). -/
theorem eq64_zero_iff (a : Dword) : eq64 a 0 = true ↔ ∃ s, a = signedZero s := by
  constructor
  · intro h
    rcases pattern_cases binary64 a.toNat with hfin | hinf | hnan
    · obtain ⟨m, e, hval, -, hvalue⟩ := val64_fin hfin
      rw [eq64, hval] at h
      have hzero := (scaled_eq_iff _ _ _ _ _ _).1 (of_decide_eq_true h)
      exact ⟨_, eq_signedZero (hvalue.trans (hzero.trans (by simp)))⟩
    · have hne (s : Bool) : eq64 (signedInfinity s) 0 = false := by cases s <;> decide
      rw [eq_signedInfinity hinf, hne] at h
      cases h
    · rw [(compare_nan (.inl ((isNaN64_iff a).2 hnan))).2.1] at h
      cases h
  · rintro ⟨s, rfl⟩
    cases s <;> decide

/-- Where the sign bit is clear, `== 0.0` means the pattern +0.0. -/
theorem eq64_zero_iff_of_not_negative {a : Dword} (h : (val64 a).negative = false) : eq64 a 0 = true ↔ a = 0 := by
  rw [eq64_zero_iff]
  constructor
  · rintro ⟨s, rfl⟩
    cases s with
    | false => rfl
    | true => exact absurd h (by decide)
  · rintro rfl
    exact ⟨false, rfl⟩

theorem magnitude_eq_none_iff (c : Coefs) (fq sr : Dword) :
    magnitude c fq sr = none ↔ eq64 (denominatorMag c (cos64 (angle fq sr)) (sin64 (angle fq sr))) 0 = true := by
  simp [magnitude, magWith]

/-- Settles O52: `dm` is a modulus, whose sign bit is clear. -/
theorem degenerateExactlyAtZero : Obligations.DegenerateExactlyAtZero := fun c fq sr =>
  (magnitude_eq_none_iff c fq sr).trans (eq64_zero_iff_of_not_negative (modulus_negative _ _))

/-- Settles O51: `magnitude` is the listing, its parts `angle`, `numeratorMag` and `denominatorMag` written out. -/
theorem magnitudeFollowsListing : Obligations.MagnitudeFollowsListing := fun _ _ _ => rfl

/-! ## EVAL (R181) -/

/-- An EVAL that passes its header check is its rule, recorded. -/
theorem exec_eval {ch : BitVec 8} {freq dst : Word} {s : State} (hch : ch.toNat < s.nch) :
    exec (.eval ch freq dst) s = .next ((evalRule ch freq dst.toNat s).record 3) :=
  exec_eq_record (i := .eval ch freq dst) (headerFault_none nofun (.inr rfl) hch)

/-- An EVAL that passes its checks writes one word, the magnitude (R181). -/
theorem evalRule_done {ch : BitVec 8} {freq m : Word} {dst : Nat} {s : State} (hdst : dst + 1 ≤ s.cfg.memWords)
    (hrate : s.params.rateValid = true) (hvalid : (s.kernel ch).valid = true) (hdomain : responseDomain s.params.rate freq = true)
    (hm : magnitude (s.kernel ch).coef (to64 freq) (to64 s.params.rate) = some m) :
    evalRule ch freq dst s = .done ((s.fresh32 m).2.memWrite dst (s.fresh32 m).1) := by
  rw [← writeMagnitude_some hm dst s]
  simp [evalRule, State.inRange, hdst, hrate, hvalid, hdomain]

/-- Settles O50: EVAL is one word written (`evalRule_done`), completed. -/
theorem evalWritesMagnitude : Obligations.EvalWritesMagnitude := by
  intro ch freq dst m s hch hdst hrate hvalid hfin hpos hfreq hm
  have hdomain : responseDomain s.params.rate freq = true := by rw [responseDomain, hfin, hpos, hfreq]; rfl
  have hrule := evalRule_done hdst hrate hvalid hdomain hm
  have hleaves := evalRule_leaves ch freq dst.toNat s
  rw [hrule] at hleaves
  obtain ⟨hout, hkernels, hncoef⟩ := hleaves
  refine ⟨_, (exec_eval hch).trans (by rw [hrule, Ended.record]), completed_of_sameOutside hout 3, keepsOthers_complete hout 3, ?_⟩
  rw [holdsMagnitude, memoryExcept, State.complete_mem, State.complete_kernels, State.complete_params, State.complete_ncoef]
  refine ⟨⟨_, memWord?_putWord_same _ _ _, s.fresh32_writtenAs m⟩, fun y hy => ?_, hkernels, hout.params, hncoef⟩
  rw [State.fresh32_state]
  exact memByte?_putWord_ne s.mem _ y _ (by omega)

/-- The rule of EVAL reads nothing of its channel but the coefficients and their valid bit (R187). -/
theorem evalRule_congr {c d : BitVec 8} {s : State} (hcoef : (s.kernel c).coef = (s.kernel d).coef)
    (hvalid : (s.kernel c).valid = (s.kernel d).valid) (freq : Word) (dst : Nat) : evalRule c freq dst s = evalRule d freq dst s := by
  rw [evalRule, evalRule, hcoef, hvalid]

/-- Settles O53: both channels pass the header check, and the rule is the same (`evalRule_congr`). -/
theorem equalCoefficientsEqualResponse : Obligations.EqualCoefficientsEqualResponse := fun c d freq dst s hc hd hcoef hvalid => by
  rw [exec_eval hc, exec_eval hd, evalRule_congr hcoef hvalid]

end Sys2Proof.Machine
end

section
/-! PROOFS. WRP (R200, R201). -/

namespace Sys2Proof.Machine

/-! ## WRP (R200) -/

/-- A `SEL` that selects a parameter register is one of three (R107). -/
theorem eq_of_sel_le_two {sel : BitVec 8} (h : sel.toNat ≤ 2) : sel = 0 ∨ sel = 1 ∨ sel = 2 := by bv_omega

/-- The parameter registers after a write to one of them, register by register (R200). -/
theorem Params.write_eq {sel : BitVec 8} (h : sel.toNat ≤ 2) (value : Word) (p : Params) :
    p.write sel value =
      { cut := if sel.toNat = 0 then value else p.cut
        res := if sel.toNat = 1 then value else p.res
        rate := if sel.toNat = 2 then value else p.rate
        cutValid := if sel.toNat = 0 then true else p.cutValid
        resValid := if sel.toNat = 1 then true else p.resValid
        rateValid := if sel.toNat = 2 then true else p.rateValid } := by
  obtain rfl | rfl | rfl := eq_of_sel_le_two h
  · rfl
  · rfl
  · rfl

/-- A WRP with a legal `SEL` is one write of the parameter registers, completed, on either port (R107, R200). -/
theorem exec_wrp {sel : BitVec 8} (h : sel.toNat ≤ 2) (value : Word) (s : State) :
    exec (.wrp sel value) s = .next ((s.setParams (s.params.write sel value)).complete 2) :=
  exec_eq_record (i := .wrp sel value) (headerFault_wrp h)

/-- A parameter write, completed, leaves what no command touches. -/
theorem keepsOthers_setParams_complete (p : Params) (s : State) (len : Nat) : keepsOthers s ((s.setParams p).complete len) := by
  refine ⟨by simp, by simp, by simp, by simp, by simp, by simp, fun q hq => ?_⟩
  rw [State.portState_complete_ne (s.setParams p) len q hq, State.setParams_portState]

/-- Settles O54: WRP is one write of the parameter registers (`Params.write_eq`), completed. -/
theorem wrpStoresParameter : Obligations.WrpStoresParameter := by
  intro sel value s hsel
  refine ⟨_, exec_wrp hsel value s, completed_of_complete 2 rfl (State.setParams_portState _ _ _) rfl,
    keepsOthers_setParams_complete _ s 2, ?_⟩
  rw [State.complete_params, State.setParams_params, Params.write_eq hsel, State.complete_kernels, State.complete_ncoef,
    State.complete_mem, State.complete_draws]
  exact ⟨rfl, rfl, rfl, rfl, rfl, rfl, rfl, rfl, rfl, rfl⟩

end Sys2Proof.Machine
end

section
/-! PROOFS. The errors of commands (R211–R214): the first condition that holds is reported and leaves the state to the error, and what every
error leaves. -/

namespace Sys2Proof.Machine

/-! ## The first condition that holds (R214) -/

/-- The code of the first condition that holds, if any. -/
def firstError (checks : List (Bool × ErrCode)) : Option ErrCode := (checks.find? (·.1)).map (·.2)

theorem firstError_nil : firstError [] = none := rfl

theorem firstError_cons (b : Bool) (c : ErrCode) (checks : List (Bool × ErrCode)) :
    firstError ((b, c) :: checks) = if b = true then some c else firstError checks := by
  cases b <;> rfl

theorem firstError_append (l m : List (Bool × ErrCode)) : firstError (l ++ m) = (firstError l).or (firstError m) := by
  rw [firstError, List.find?_append, Option.map_or, firstError, firstError]

theorem firstError_ne_none {checks : List (Bool × ErrCode)} (h : ∃ c ∈ checks, c.1 = true) : firstError checks ≠ none := by
  rw [firstError, Ne, Option.map_eq_none_iff, ← Ne, ← Option.isSome_iff_ne_none, List.find?_isSome]
  exact h

/-- The header checks come before a command's own (R112, R214). -/
theorem firstError_allChecks (s : State) (i : Instr) :
    firstError (allChecks s i) = (headerFault s.cur s.nch i.header).or (firstError (ownChecks s i)) := by
  unfold allChecks
  rw [firstError_append]
  congr 1
  cases i <;> simp [firstError_cons, firstError_nil, headerFault, Instr.header, Op.renderOnly, isRenderOnly, channelOf]

/-! ## A rule and its own conditions -/

/-- A rule ends with the given error and leaves the state to it (R212), or, given none, is done. -/
def Ended.Reports (s : State) (e : Ended) : Option ErrCode → Prop
  | some c => e = .failed c s
  | none => ∃ u, e = .done u

/-- A rule that tests its next condition reports it, or what the rest of the rule reports. -/
theorem Ended.Reports.check {s : State} {b : Bool} {c : ErrCode} {checks : List (Bool × ErrCode)} {e : Ended}
    (h : b = false → e.Reports s (firstError checks)) : Ended.Reports s (if b = true then .failed c s else e) (firstError ((b, c) :: checks)) := by
  cases b with
  | true => exact rfl
  | false => exact h rfl

theorem Ended.Reports.done (s u : State) : (Ended.done u).Reports s (firstError []) := ⟨u, rfl⟩

theorem State.not_inRange (s : State) (a n : Nat) : (!s.inRange a n) = decide (s.cfg.memWords < a + n) := by
  rw [State.inRange, ← decide_not, decide_eq_decide, not_le]

theorem toNat_ne_zero {n : Word} (h : n ≠ 0) : n.toNat ≠ 0 := fun h0 => h (BitVec.eq_of_toNat_eq h0)

theorem calcRule_reports (ch : BitVec 8) (f res : Dword) (s : State) :
    (calcRule ch f res s).Reports s (firstError (ownChecks s (.calcCoef ch f res))) := by
  rw [ownChecks, ← Bool.not_and, ← calcDomain, calcRule]
  cases calcDomain f res
  · exact rfl
  · exact .done s _

/-- The conditions on the parameter registers (R152, R153). -/
def preambleChecks (p : Params) : List (Bool × ErrCode) :=
  [(!p.cutValid || !p.resValid || !p.rateValid, .uninitParam),
    (isNaN64 (to64 p.cut) || isNaN64 (to64 p.res) || !isFinite64 (to64 p.rate) || !lt64 0 (to64 p.rate), .domain)]

theorem preamble_eq (p : Params) :
    preamble p = (firstError (preambleChecks p)).elim (.ok (normalizedFreq (clampCut (to64 p.cut)) (to64 p.rate), clampRes (to64 p.res))) .error := by
  simp only [preamble]
  rw [preambleChecks, firstError_cons, firstError_cons]
  split_ifs <;> rfl

theorem processRule_reports (ch : BitVec 8) (sil : Bool) (src dst n : Word) (s : State) :
    (processRule ch src.toNat dst.toNat n.toNat s).Reports s (firstError (ownChecks s (.process ch sil src dst n))) := by
  by_cases hn : n = 0
  · rw [ownChecks, if_pos hn, hn]
    exact .done s _
  · rw [ownChecks, if_neg hn, processRule, if_neg (toNat_ne_zero hn), Bool.not_and, s.not_inRange, s.not_inRange]
    refine .check fun _ => ?_
    change Ended.Reports s _ (firstError (preambleChecks s.params))
    rw [preamble_eq]
    cases firstError (preambleChecks s.params) with
    | some c => exact rfl
    | none => exact ⟨_, rfl⟩

theorem evalRule_reports (ch : BitVec 8) (freq dst : Word) (s : State) :
    (evalRule ch freq dst.toNat s).Reports s (firstError (ownChecks s (.eval ch freq dst))) := by
  rw [ownChecks, evalRule, s.not_inRange, responseDomain, Bool.not_and, Bool.not_and]
  refine .check fun _ => .check fun _ => .check fun _ => .check fun _ => ?_
  rcases writeMagnitude_cases (s.kernel ch).coef s.params.rate freq dst.toNat s with ⟨hm, h⟩ | ⟨m, hm, h⟩ <;> rw [h, hm]
  · exact rfl
  · exact .done s _

theorem rdcoefRule_reports (ch : BitVec 8) (dst : Word) (s : State) :
    (rdcoefRule ch dst.toNat s).Reports s (firstError (ownChecks s (.rdcoef ch dst))) := by
  rw [ownChecks, rdcoefRule, s.not_inRange]
  exact .check fun _ => .check fun _ => .done s _

/-- A CURVE reports the first condition before its entries; without entries it has none and is done (R182). -/
theorem curveRule_reports {ch : BitVec 8} {a n : Word} {s : State} (h : n = 0 ∨ firstError (ownChecks s (.curve ch a n)) ≠ none) :
    (curveRule ch a.toNat n.toNat s).Reports s (firstError (ownChecks s (.curve ch a n))) := by
  by_cases hn : n = 0
  · rw [ownChecks, if_pos hn, hn]
    exact .done s _
  · replace h := h.resolve_left hn
    rw [ownChecks, if_neg hn] at h ⊢
    rw [curveRule, if_neg (toNat_ne_zero hn), s.not_inRange]
    exact .check fun h1 => .check fun h2 => .check fun h3 => absurd (by rw [h1, h2, h3]; rfl) h

/-- The rule of a command reports its own first error condition; only a CURVE with entries can meet none and still fail (R214). -/
theorem commandRule_reports {i : Instr} {s : State}
    (h : (∀ ch a n, i = .curve ch a n → n = 0) ∨ firstError (ownChecks s i) ≠ none) :
    (commandRule i s).Reports s (firstError (ownChecks s i)) := by
  cases i with
  | wrp sel value => exact .done s _
  | process ch sil src dst n => exact processRule_reports ch sil src dst n s
  | reset ch => exact .done s _
  | calcCoef ch f res => exact calcRule_reports ch f res s
  | eval ch freq dst => exact evalRule_reports ch freq dst s
  | curve ch a n => exact curveRule_reports (h.imp_left fun h => h ch a n rfl)
  | rdcoef ch dst => exact rdcoefRule_reports ch dst s

/-! ## Whole commands (R112, R212) -/

/-- A command that meets an error condition reports the first one, and changes nothing but by that error (R212, R214). -/
theorem exec_of_firstError {i : Instr} {s : State} {c : ErrCode} (h : firstError (allChecks s i) = some c) : exec i s = .next (s.raise c) := by
  rw [firstError_allChecks] at h
  cases hf : headerFault s.cur s.nch i.header with
  | some d =>
    rw [hf, Option.some_or] at h
    cases h
    rw [exec_eq_issue, State.issue_fault hf]
  | none =>
    rw [hf, Option.none_or] at h
    have hr : (commandRule i s).Reports s (firstError (ownChecks s i)) := commandRule_reports (.inr (by rw [h]; nofun))
    rw [h] at hr
    rw [exec_eq_issue, State.issue_failed hf hr]

/-- A command that meets no error condition passes its header checks, and its rule is done, but for a CURVE with entries (R214). -/
theorem commandRule_of_no_error {i : Instr} {s : State} (h : firstError (allChecks s i) = none) (hi : ∀ ch a n, i = .curve ch a n → n = 0) :
    headerFault s.cur s.nch i.header = none ∧ ∃ u, commandRule i s = .done u := by
  rw [firstError_allChecks, Option.or_eq_none_iff] at h
  have hr : (commandRule i s).Reports s (firstError (ownChecks s i)) := commandRule_reports (.inl hi)
  rw [h.2] at hr
  exact ⟨h.1, hr⟩

theorem Ended.Leaves.of_done {P : State → Prop} {e : Ended} {u : State} (he : e.Leaves P) (h : e = .done u) : P u := by
  rw [h] at he
  exact he

theorem Ended.Leaves.of_failed {P : State → Prop} {e : Ended} {u : State} {c : ErrCode} (he : e.Leaves P) (h : e = .failed c u) : P u := by
  rw [h] at he
  exact he.2

/-- A rule that is done leaves the host's record of completions to the completion (R249). -/
theorem commandRule_unseen {i : Instr} {s u : State} (h : commandRule i s = .done u) : u.unseen = s.unseen := by
  cases i with
  | wrp sel value => cases h; rfl
  | process ch sil src dst n =>
    rcases processRule_cases ch src.toNat dst.toNat n.toNat s with ⟨-, hr⟩ | ⟨c, -, hr⟩ | ⟨-, f, res, -, hr⟩ <;> cases hr.symm.trans h
    · rfl
    · exact (State.processed_sameOutside ch _ _ _ f res s).unseen
  | reset ch => cases h; rfl
  | calcCoef ch f res =>
    have hr : calcRule ch f res s = .done u := h
    unfold calcRule at hr
    split_ifs at hr
    cases hr
    exact (State.writeCoef_sameOutside s ch _).unseen
  | eval ch freq dst => exact ((evalRule_leaves ch freq dst.toNat s).of_done h).1.unseen
  | curve ch a n => exact ((curveRule_leaves ch a.toNat n.toNat s).of_done h).1.unseen
  | rdcoef ch dst => exact ((rdcoefRule_leaves ch dst.toNat s).of_done h).1.unseen

/-- A command whose rule is done completes (R112). -/
theorem completed_of_done {i : Instr} {s u : State} (hf : headerFault s.cur s.nch i.header = none) (h : commandRule i s = .done u) :
    completed i.len s (u.complete i.len) := by
  have hw := (commandRule_worked hf).of_done h
  exact completed_of_complete i.len hw.cur (hw.portState _) (commandRule_unseen h)

/-- Settles O16: the first condition is raised (`exec_of_firstError`), and where none holds the rule is done. -/
theorem firstErrorReported : Obligations.FirstErrorReported := by
  intro i s _
  cases hc : (allChecks s i).find? (·.1) with
  | some c => exact ⟨_, exec_of_firstError (c := c.2) (by rw [firstError, hc]; rfl), failedWith_of_sameOutside (.refl s) c.2⟩
  | none =>
    by_cases hcurve : ∃ ch a n, i = .curve ch a n ∧ n ≠ 0
    · exact ⟨_, exec_eq_issue i s, .inl hcurve⟩
    · push Not at hcurve
      obtain ⟨hf, u, hu⟩ := commandRule_of_no_error (by rw [firstError, hc]; rfl) hcurve
      exact ⟨_, by rw [exec_eq_record hf, hu]; rfl, .inr (completed_of_done hf hu)⟩

/-- A command that leaves an error on its port raised it after work that wrote no register; after no work at all, but for a CURVE that
passed the checks before its entries (R212, R213). -/
theorem exec_raises {i : Instr} {s t : State} (hs : (s.portState s.cur).err = false) (h : exec i s = .next t)
    (herr : (t.portState s.cur).err = true) :
    ∃ c u, t = u.raise c ∧ s.readsTo u ∧ ((∀ ch a n, i ≠ .curve ch a n) ∨ firstError (allChecks s i) ≠ none → u = s) := by
  cases hc : firstError (allChecks s i) with
  | some c =>
    rw [exec_of_firstError hc] at h
    cases h
    exact ⟨c, s, rfl, .refl s, fun _ => rfl⟩
  | none =>
    rcases exec_cases h with ⟨c, -, rfl⟩ | ⟨-, c, u, hr, rfl⟩ | ⟨hf, u, hr, rfl⟩
    · exact ⟨c, s, rfl, .refl s, fun _ => rfl⟩
    · by_cases hcurve : ∃ ch a n, i = .curve ch a n
      · obtain ⟨ch, a, n, rfl⟩ := hcurve
        exact ⟨c, u, rfl, (curveRule_leaves ch a.toNat n.toNat s).of_failed hr, fun hi => hi.elim (absurd rfl <| · ch a n) (absurd rfl)⟩
      · obtain ⟨-, v, hv⟩ := commandRule_of_no_error hc fun ch a n hi => absurd ⟨ch, a, n, hi⟩ hcurve
        cases hr.symm.trans hv
    · rw [(completed_of_done hf hr).1] at herr
      cases hs.symm.trans herr

/-- An error that a command leaves on its port has a code (R211). -/
theorem exec_errCode {i : Instr} {s t : State} (hs : (s.portState s.cur).err = false) (h : exec i s = .next t)
    (herr : (t.portState s.cur).err = true) : (t.portState s.cur).errCode ≠ .none := by
  rcases (exec_portMove h).running with ⟨len, cp, hp⟩ | ⟨c, errCp, hc, hp⟩ | ⟨j, -, hp⟩ <;> rw [hp] at herr ⊢
  · cases hs.symm.trans herr
  · exact hc
  · cases hs.symm.trans herr

/-- A halted port cannot move (R215). -/
theorem State.portReady_of_err {s : State} {p : Port} (h : (s.portState p).err = true) : s.portReady p = false := by
  rw [State.portReady, h, Bool.not_true, Bool.false_and]

/-- Settles O15: the error is raised after work that wrote no register, or after none (`exec_raises`). -/
theorem errorsArePrecise : Obligations.ErrorsArePrecise := by
  intro i s hs
  obtain ⟨t, ht⟩ := everyCommandAnswers i s
  refine ⟨t, ht, fun herr => ?_⟩
  have hcode := exec_errCode hs ht herr
  have hready := State.portReady_of_err herr
  obtain ⟨c, u, rfl, hu, hstate⟩ := exec_raises hs ht herr
  have hfailed := failedWith_of_sameOutside hu.1 c
  refine ⟨by rw [hfailed.1]; exact hfailed, hcode, keepsOthers_raise hu.1 c, ?_⟩
  rw [State.raise_kernels, State.raise_params, State.raise_ncoef, State.raise_mem, State.raise_draws]
  refine ⟨hu.2.1, hu.1.params, hu.2.2, hready, fun hi => ?_⟩
  rw [hstate (hi.imp_right firstError_ne_none)]
  exact ⟨rfl, rfl⟩

end Sys2Proof.Machine
end

section
/-! PROOFS. The life of an error on its port: halted until the host's clear or power-on reset (R215, R216); and the end of a run, where no port
has one (R225, R251). -/

namespace Sys2Proof.Machine

/-! ## The clear (R216) -/

theorem State.portState_clear_same (s : State) (p : Port) :
    (s.clear p).portState p =
      { s.portState p with
        fifo := [], cp := (s.portState p).cp + BitVec.ofNat 32 (s.portState p).fifo.length, err := false, errCode := .none } := by
  rw [State.clear, State.setErrorsSeen_portState, State.portState_setPort_same]

theorem State.portState_clear_ne {s : State} {p q : Port} (h : q ≠ p) : (s.clear p).portState q = s.portState q := by
  rw [State.clear, State.setErrorsSeen_portState, State.portState_setPort_ne _ _ _ _ h]

theorem State.writeStatus_of_err {s : State} {p : Port} {w : Word} (h : (s.portState p).err = true) (hw : w.getLsbD 0 = true) :
    s.writeStatus p w = s.clear p := by
  rw [State.writeStatus, h, hw]
  rfl

theorem State.portState_push_same {s : State} {p : Port} (h : (s.portState p).err = false) (w : Word) :
    (s.push p w).portState p = { s.portState p with fifo := (s.portState p).fifo ++ [w] } := by
  simp only [State.push, h, Bool.false_eq_true, if_false]
  exact s.portState_setPort_same p _

/-- Settles O18: the write is the clear, and a push after it finds the FIFO empty. -/
theorem errorClearFlushesFifo : Obligations.ErrorClearFlushesFifo := by
  intro s p w herr hw
  have hclear := s.portState_clear_same p
  refine ⟨s.clear p, ?_, hclear, fun q hq => State.portState_clear_ne hq, by simp [State.clear], by simp [State.clear], by simp [State.clear],
    by simp [State.clear], fun v => ?_⟩
  · rw [← State.writeStatus_of_err herr hw]
    cases p <;> rfl
  · rw [State.portState_push_same (by rw [hclear]), hclear]
    rfl

/-! ## A halted port (R215) -/

/-- A push to a halted port is discarded (R43). -/
theorem State.push_of_err {s : State} {p : Port} (h : (s.portState p).err = true) (w : Word) : s.push p w = s := by
  rw [State.push, h]
  rfl

theorem State.portState_push_ne {s : State} {p q : Port} (h : q ≠ p) (w : Word) : (s.push p w).portState q = s.portState q := by
  simp only [State.push]
  split_ifs
  · rfl
  · exact s.portState_setPort_ne _ _ _ h

theorem State.portState_writeStatus_ne {s : State} {p q : Port} (h : q ≠ p) (w : Word) : (s.writeStatus p w).portState q = s.portState q := by
  unfold State.writeStatus
  split_ifs
  · exact State.portState_clear_ne h
  · rfl

/-- The offset of a port's `STATUS` register (R42). -/
def statusOffset : Port → Nat
  | .R => 0x08
  | .D => 0x0C

/-- A write to a host register leaves a halted port, but for its clear (R215, R216). -/
theorem State.writeHostRegister_halted {s : State} {p : Port} (h : (s.portState p).err = true) (off : Nat) (w : Word) :
    (s.writeHostRegister off w).portState p = s.portState p ∨ off = statusOffset p ∧ w.getLsbD 0 = true := by
  have hpush (q : Port) : (s.push q w).portState p = s.portState p := by
    by_cases hq : p = q
    · rw [State.push_of_err (hq ▸ h)]
    · exact State.portState_push_ne hq w
  have hstatus (q : Port) : (s.writeStatus q w).portState p = s.portState p ∨ statusOffset q = statusOffset p ∧ w.getLsbD 0 = true := by
    by_cases hq : p = q
    · cases hw : w.getLsbD 0 with
      | true => exact .inr ⟨by rw [hq], rfl⟩
      | false => exact .inl (by rw [State.writeStatus, hw]; rfl)
    · exact .inl (State.portState_writeStatus_ne hq w)
  unfold State.writeHostRegister
  split
  · exact .inl (hpush .R)
  · exact .inl (hpush .D)
  · exact hstatus .R
  · exact hstatus .D
  · exact .inl rfl

/-- Everything a host move can be: a write to a register, a change of `MEM` and of the model's own records, or power-on reset. -/
theorem hostMove_forms {m : HostMove} {s t : State} (h : hostMove m s = .next t) :
    (∃ off w, m = .regWrite off 4 w ∧ t = s.writeHostRegister off w) ∨
    (∃ mem r u e n, t = ((((s.setMem mem).setReturned r).setUnseen u).setErrorsSeen e).setDraws n) ∨
    m = .powerOn ∧ t = s.powerOnReset := by
  cases m with
  | powerOn => cases h; exact .inr (.inr ⟨rfl, rfl⟩)
  | regWrite off size w =>
    simp only [hostMove] at h
    split_ifs at h with ha
    cases h
    obtain ⟨rfl, -, -⟩ := (registerAccess_iff _ _).1 ha
    exact .inl ⟨off, w, rfl, rfl⟩
  | regRead off size =>
    simp only [hostMove] at h
    split_ifs at h
    cases h
    obtain ⟨u, e, hs⟩ := (s.answer (s.hostRegister off)).hostSees_records off
    exact .inr (.inl ⟨s.mem, s.hostRegister off :: s.returned, u, e, s.draws, hs⟩)
  | memWrite off size w =>
    simp only [hostMove] at h
    split_ifs at h
    cases h
    exact .inr (.inl ⟨putWord s.mem (off / 4) w, s.returned, s.unseen, s.errorsSeen, s.draws, rfl⟩)
  | memRead off size =>
    simp only [hostMove] at h
    split_ifs at h
    cases h
    rw [State.memRead_state]
    exact .inr (.inl ⟨s.mem, _ :: s.returned, s.unseen, s.errorsSeen, _, rfl⟩)

/-- A host move leaves a halted port, but for its clear and power-on reset (R215, R216, R240). -/
theorem hostMove_halted {m : HostMove} {s t : State} {p : Port} (h : (s.portState p).err = true) (hm : hostMove m s = .next t) :
    t.portState p = s.portState p ∨ (∃ w, m = .regWrite (statusOffset p) 4 w ∧ w.getLsbD 0 = true) ∨ m = .powerOn := by
  rcases hostMove_forms hm with ⟨off, w, rfl, rfl⟩ | ⟨mem, r, u, e, n, rfl⟩ | ⟨hpow, -⟩
  · exact (State.writeHostRegister_halted h off w).imp_right fun ⟨hoff, hw⟩ => .inl ⟨w, by rw [hoff], hw⟩
  · exact .inl (by simp)
  · exact .inr (.inr hpow)

/-- A step leaves a halted port, but for the host's clear and power-on reset (R215). -/
theorem step_halted {s t : State} {p : Port} (herr : (s.portState p).err = true) (h : step s = .next t) :
    t.portState p = s.portState p ∨ (∃ w ms, s.host = .regWrite (statusOffset p) 4 w :: ms ∧ w.getLsbD 0 = true) ∨
      ∃ ms, s.host = .powerOn :: ms := by
  rcases step_moves h with ⟨n, rfl⟩ | ⟨n, m, ms, hh, -, hm⟩ | ⟨n, q, m, hq, hm⟩
  · exact .inl (s.setTicks_portState n p)
  · have hp := hostMove_halted (p := p) (by rwa [State.setHost_portState, State.setTicks_portState]) hm
    rw [State.setHost_portState, State.setTicks_portState] at hp
    rcases hp with hp | ⟨w, rfl, hw⟩ | rfl
    · exact .inl hp
    · exact .inr (.inl ⟨w, ms, hh, hw⟩)
    · exact .inr (.inr ⟨ms, hh⟩)
  · have hne : p ≠ q := fun e => by cases herr.symm.trans (e ▸ State.err_of_mem_ready hq)
    left
    rw [hm.portMove.other hne, State.setCur_portState, State.setTicks_portState]

/-- Settles O17: a halted port is not ready (`State.portReady_of_err`), and no step but the two changes it (`step_halted`). -/
theorem haltedPortFrozen : Obligations.HaltedPortFrozen := by
  intro s p herr
  refine ⟨State.portReady_of_err herr, ?_, State.push_of_err herr, fun t h => ?_, fun q hq => ⟨?_, ?_⟩⟩
  · have hidle : (s.portState p).idle = false := by rw [PortState.idle, herr]; rfl
    rw [← hidle]
    exact (status_fields _ _ _).2.1
  · refine (step_halted herr h).imp_right (.imp_left fun ⟨w, ms, hh, hw⟩ => ⟨_, w, ms, hh, ?_, hw⟩)
    cases p <;> rfl
  · rintro rfl
    have he := State.err_of_mem_ready (s := s) (p := q) (by rw [hq]; exact List.mem_singleton_self _)
    cases herr.symm.trans he
  · rw [step, hq]

/-! ## The end of a run (R225, R251) -/

theorem HostMove.isPush_iff (m : HostMove) : m.isPush = true ↔ ∃ w p, m = .regWrite (commandOffset p) 4 w := by
  constructor
  · cases m with
    | regWrite off size w =>
      simp only [HostMove.isPush, Bool.and_eq_true, Bool.or_eq_true, decide_eq_true_eq]
      rintro ⟨rfl, rfl | rfl⟩
      · exact ⟨w, .R, rfl⟩
      · exact ⟨w, .D, rfl⟩
    | regRead | memWrite | memRead | powerOn => nofun
  · rintro ⟨w, p, rfl⟩
    cases p <;> rfl

theorem State.isFinal_iff (s : State) :
    s.isFinal = true ↔ (∀ m ∈ s.host, m.isPush = false) ∧ s.portR.idle = true ∧ s.portD.idle = true := by
  simp [State.isFinal, and_assoc]

/-- With a consistent error state, `IDLE` is the only bit of `STATUS_P` that can stand alone (R44). -/
theorem PortState.status_eq_idle_iff {ps : PortState} (h : ps.errorOk = true) : ps.status = 0x00000002#32 ↔ ps.idle = true := by
  constructor
  · intro hs
    rw [← (status_fields ps.errCode.bits ps.idle ps.err).2.1]
    exact congrArg (·.getLsbD 1) hs
  · intro hidle
    obtain ⟨he, hj, hf⟩ := ps.idle_iff.1 hidle
    have hcode : ps.errCode = .none := by simpa [PortState.errorOk, he] using h
    rw [PortState.status, hidle, he, hcode]
    rfl

theorem State.portReady_of_idle {s : State} {p : Port} (h : (s.portState p).idle = true) : s.portReady p = false := by
  obtain ⟨he, hj, hf⟩ := (PortState.idle_iff _).1 h
  rw [State.portReady, hj, State.fetch, hf]
  simp [decode]

theorem State.portState_idle_of_isFinal {s : State} (h : s.isFinal = true) (p : Port) : (s.portState p).idle = true := by
  obtain ⟨-, hR, hD⟩ := s.isFinal_iff.1 h
  cases p
  · exact hR
  · exact hD

theorem State.writeHostRegister_host (off : Nat) (w : Word) (s : State) : (s.writeHostRegister off w).host = s.host := by
  unfold State.writeHostRegister State.push State.writeStatus State.clear
  split <;> dsimp only <;> split_ifs <;> simp

/-- A host move takes nothing off the host's list: `hostStep` has taken it. -/
theorem hostMove_host {m : HostMove} {s t : State} (h : hostMove m s = .next t) : t.host = s.host := by
  rcases hostMove_forms h with ⟨off, w, -, rfl⟩ | ⟨mem, r, u, e, n, rfl⟩ | ⟨-, rfl⟩
  · exact s.writeHostRegister_host off w
  · rfl
  · rfl

/-- A host move other than a push leaves an idle port idle. -/
theorem hostMove_idle {m : HostMove} {s t : State} {p : Port} (hm : hostMove m s = .next t) (hpush : m.isPush = false)
    (h : (s.portState p).idle = true) : (t.portState p).idle = true := by
  rcases hostMove_cases hm with ⟨-, rfl⟩ | ⟨-, hmoved⟩
  · cases p <;> rfl
  · have hp := hmoved.port p
    obtain ⟨-, hj, -⟩ := (PortState.idle_iff _).1 h
    generalize t.portState p = ps at hp ⊢
    cases hp with
    | same => exact h
    | pushed w hw => cases hpush.symm.trans (m.isPush_iff.2 ⟨w, p, hw⟩)
    | cleared cp => exact (PortState.idle_iff _).2 ⟨rfl, hj, rfl⟩

/-- At the end of a run only the host can move, and its moves leave the end of the run (R225, R251). -/
theorem step_isFinal {s t : State} (hs : s.isFinal = true) (h : step s = .next t) : t.isFinal = true := by
  rcases step_moves h with ⟨n, rfl⟩ | ⟨n, m, ms, hh, -, hm⟩ | ⟨n, q, m, hq, -⟩
  · exact hs
  · have hpush := (s.isFinal_iff.1 hs).1
    rw [hh] at hpush
    have hidle (p : Port) : (t.portState p).idle = true := by
      refine hostMove_idle hm (hpush m List.mem_cons_self) ?_
      rw [State.setHost_portState, State.setTicks_portState]
      exact State.portState_idle_of_isFinal hs p
    rw [State.isFinal_iff, hostMove_host hm]
    exact ⟨fun m' hm' => hpush m' (List.mem_cons_of_mem m hm'), hidle .R, hidle .D⟩
  · rw [State.mem_ready_port, State.portReady_of_idle (State.portState_idle_of_isFinal hs q)] at hq
    cases hq

/-- At the end of a run with no host move left nothing can move, and no port waits for words or has an error. -/
theorem step_of_isFinal {s : State} (hs : s.isFinal = true) (hh : s.host = []) : step s = .next s := by
  have hready : s.ready = [] := by
    simp [State.ready, State.portReady_of_idle (State.portState_idle_of_isFinal hs _), State.hostReady, hh]
  obtain ⟨-, hR, hD⟩ := s.isFinal_iff.1 hs
  obtain ⟨heR, -, hfR⟩ := (PortState.idle_iff _).1 hR
  obtain ⟨heD, -, hfD⟩ := (PortState.idle_iff _).1 hD
  simp [step, hready, State.quiescent, heR, heD, State.fetch, State.portState, hfR, hfD, decode]

/-- Settles O28: an idle port with a consistent error state is one whose `STATUS` reads 0x00000002 (`PortState.status_eq_idle_iff`). -/
theorem endOfRun : Obligations.EndOfRun := by
  refine fun s hR hD => ⟨?_, fun hs _ => step_isFinal hs, step_of_isFinal⟩
  rw [s.isFinal_iff, PortState.status_eq_idle_iff hR, PortState.status_eq_idle_iff hD]
  refine and_congr_left' (forall₂_congr fun m _ => ?_)
  rw [← Bool.not_eq_true, m.isPush_iff]
  push Not
  rfl

end Sys2Proof.Machine
end
